-- ==== Sys2Proof/Word.lean ====
section
/-! DEFINITION. The plain word types of SEYMOUR-CORE. -/

namespace Sys2Proof

/-- A command word as the command port presents it: 32 bits, bit 0 the least significant
(00_scope.md R12, 30_encoding.md R91). -/
abbrev Word := BitVec 32

/-- A raw parameter integer and the immediate field: 16 bits, two's complement
(00_scope.md R10 `RAW_W`, 30_encoding.md R94). -/
abbrev Raw := BitVec 16

/-- The sample-rate port and register: 32 bits unsigned, in Hz (00_scope.md R10 `FS_W`). -/
abbrev Rate := BitVec 32

/-- The channel field of a command word: four bits, of which a legal command uses `0..7`
(30_encoding.md R91, R95). -/
abbrev ChField := BitVec 4

end Sys2Proof
end

