-- ==== Sys2Proof/Syntax.lean ====
section
/-! DEFINITION. The commands of SEYMOUR-CORE: one constructor for each of the 19 rows of the opcode table. -/

namespace Sys2Proof

/-- A host command (47_host_commands.md R241: these are the whole command set). `v` and `n` are the
16-bit immediate, read as signed by the meanings (30_encoding.md R94); `c` is the channel field. -/
inductive Instr where
  /-- `NOP` (R220). -/
  | nop
  /-- `CONSTRUCT n` (R221). -/
  | construct (n : Raw)
  /-- `WRP.OUT_L v`, parameter 00h (R223). -/
  | wrpOutL (v : Raw)
  /-- `WRP.OUT_R v`, parameter 01h (R224). -/
  | wrpOutR (v : Raw)
  /-- `WRP.OUT_MODE v`, parameter 02h (R225). -/
  | wrpOutMode (v : Raw)
  /-- `WRP.MASTER v`, parameter 03h (R226). -/
  | wrpMaster (v : Raw)
  /-- `WRP.SAT v`, parameter 04h (R227). -/
  | wrpSat (v : Raw)
  /-- `WRP.SQUASH v`, parameter 05h (R228). -/
  | wrpSquash (v : Raw)
  /-- `WRP.LOOKAHEAD v`, parameter 06h (R230). -/
  | wrpLookahead (v : Raw)
  /-- `WRP.FBDELAY v`, parameter 07h (R231). -/
  | wrpFbDelay (v : Raw)
  /-- `WRP.IN_BUS c, v`, parameter 10h (R232). -/
  | wrpInBus (c : ChField) (v : Raw)
  /-- `WRP.FB c, v`, parameter 11h (R233). -/
  | wrpFb (c : ChField) (v : Raw)
  /-- `WRP.FBCV_BUS c, v`, parameter 12h (R234). -/
  | wrpFbCvBus (c : ChField) (v : Raw)
  /-- `WRP.FBCV_DEPTH c, v`, parameter 13h (R235). -/
  | wrpFbCvDepth (c : ChField) (v : Raw)
  /-- `WRP.PAN c, v`, parameter 14h (R236). -/
  | wrpPan (c : ChField) (v : Raw)
  /-- `WRP.PANCV_BUS c, v`, parameter 15h (R237). -/
  | wrpPanCvBus (c : ChField) (v : Raw)
  /-- `WRP.PANCV_DEPTH c, v`, parameter 16h (R238). -/
  | wrpPanCvDepth (c : ChField) (v : Raw)
  /-- `BLKSTART` (R210). -/
  | blkstart
  /-- `FRAME` (R200). -/
  | frame
  deriving DecidableEq, Repr, Inhabited

end Sys2Proof
end

