-- ==== Sys2Proof/WellFormed.lean ====
section
/-! DEFINITION. Which commands have an encoding: the channel of a per-channel parameter is `0..7`. -/

namespace Sys2Proof

/-- The channel field a command carries; 0 for a command that has none (30_encoding.md R91). -/
def Instr.channel : Instr → ChField
  | .wrpInBus c _ | .wrpFb c _ | .wrpFbCvBus c _ | .wrpFbCvDepth c _ => c
  | .wrpPan c _ | .wrpPanCvBus c _ | .wrpPanCvDepth c _ => c
  | .nop | .construct _ | .wrpOutL _ | .wrpOutR _ | .wrpOutMode _ | .wrpMaster _ | .wrpSat _ => 0
  | .wrpSquash _ | .wrpLookahead _ | .wrpFbDelay _ | .blkstart | .frame => 0

/-- A per-channel command must name a channel `0..7`, that is, bit 27 of its word is clear
(30_encoding.md R95). Every other operand is free: a field holds exactly the values of its type. -/
def wellFormed (i : Instr) : Bool := decide (i.channel.toNat < 8)

end Sys2Proof
end

