-- ==== Sys2Proof/Decode.lean ====
section
/-! DEFINITION. Decoding and encoding of the 32-bit command word, written from the tables of
30_encoding.md, and the assembler's spelling of a command (R100, R101). -/

namespace Sys2Proof

/-- `op`, bits 31:28 (30_encoding.md R91). -/
def opField (w : Word) : BitVec 4 := w.extractLsb' 28 4
/-- `ch`, bits 27:24 (30_encoding.md R91). -/
def chField (w : Word) : ChField := w.extractLsb' 24 4
/-- `pid`, bits 23:16 (30_encoding.md R91). -/
def pidField (w : Word) : BitVec 8 := w.extractLsb' 16 8
/-- `imm`, bits 15:0 (30_encoding.md R91). -/
def immField (w : Word) : Raw := w.extractLsb' 0 16

/-- Why a word is reserved, the disjuncts of 30_encoding.md R97 by name. -/
inductive Reserved where
  /-- `op >= 5`. -/
  | opcode
  /-- a field that the format requires to be 0 is not (formats Z and C). -/
  | nonzeroField
  /-- `op = 2` and `pid` is no parameter of R96. -/
  | parameter
  /-- `op = 2`, a global parameter, `ch` not 0. -/
  | channelOfGlobal
  /-- `op = 2`, a channel parameter, `ch >= 8`. -/
  | channelAbove7
  deriving DecidableEq, Repr

/-- What a command word is: a command, or a reserved word. -/
inductive Decoded where
  | command (i : Instr)
  | reserved (why : Reserved)
  deriving DecidableEq, Repr

/-- The parameters `00h..07h` (30_encoding.md R96). -/
def globalCommand (pid : BitVec 8) (v : Raw) : Option Instr :=
  match pid.toNat with
  | 0x00 => some (.wrpOutL v)
  | 0x01 => some (.wrpOutR v)
  | 0x02 => some (.wrpOutMode v)
  | 0x03 => some (.wrpMaster v)
  | 0x04 => some (.wrpSat v)
  | 0x05 => some (.wrpSquash v)
  | 0x06 => some (.wrpLookahead v)
  | 0x07 => some (.wrpFbDelay v)
  | _ => none

/-- The parameters `10h..16h` (30_encoding.md R96). -/
def channelCommand (pid : BitVec 8) (c : ChField) (v : Raw) : Option Instr :=
  match pid.toNat with
  | 0x10 => some (.wrpInBus c v)
  | 0x11 => some (.wrpFb c v)
  | 0x12 => some (.wrpFbCvBus c v)
  | 0x13 => some (.wrpFbCvDepth c v)
  | 0x14 => some (.wrpPan c v)
  | 0x15 => some (.wrpPanCvBus c v)
  | 0x16 => some (.wrpPanCvDepth c v)
  | _ => none

/-- Format W (30_encoding.md R92, R95, R96). -/
def decodeWrp (ch : ChField) (pid : BitVec 8) (imm : Raw) : Decoded :=
  match globalCommand pid imm with
  | some i => if ch = 0 then .command i else .reserved .channelOfGlobal
  | none =>
    match channelCommand pid ch imm with
    | some i => if ch.toNat < 8 then .command i else .reserved .channelAbove7
    | none => .reserved .parameter

/-- Decoding, total on all `2^32` words (30_encoding.md R99). -/
def decode (w : Word) : Decoded :=
  match (opField w).toNat with
  | 0 => if w.extractLsb' 0 28 = 0 then .command .nop else .reserved .nonzeroField
  | 1 =>
    if chField w = 0 ∧ pidField w = 0 then .command (.construct (immField w))
    else .reserved .nonzeroField
  | 2 => decodeWrp (chField w) (pidField w) (immField w)
  | 3 => if w.extractLsb' 0 28 = 0 then .command .blkstart else .reserved .nonzeroField
  | 4 => if w.extractLsb' 0 28 = 0 then .command .frame else .reserved .nonzeroField
  | _ => .reserved .opcode

/-- The word with the four fields of 30_encoding.md R91, `op` at the high end. -/
def commandWord (op : BitVec 4) (ch : ChField) (pid : BitVec 8) (imm : Raw) : Word :=
  op ++ ch ++ pid ++ imm

/-- The word of a command (30_encoding.md R92, R93, R96). -/
def encode : Instr → Word
  | .nop => commandWord 0 0 0 0
  | .construct n => commandWord 1 0 0 n
  | .wrpOutL v => commandWord 2 0 0x00 v
  | .wrpOutR v => commandWord 2 0 0x01 v
  | .wrpOutMode v => commandWord 2 0 0x02 v
  | .wrpMaster v => commandWord 2 0 0x03 v
  | .wrpSat v => commandWord 2 0 0x04 v
  | .wrpSquash v => commandWord 2 0 0x05 v
  | .wrpLookahead v => commandWord 2 0 0x06 v
  | .wrpFbDelay v => commandWord 2 0 0x07 v
  | .wrpInBus c v => commandWord 2 c 0x10 v
  | .wrpFb c v => commandWord 2 c 0x11 v
  | .wrpFbCvBus c v => commandWord 2 c 0x12 v
  | .wrpFbCvDepth c v => commandWord 2 c 0x13 v
  | .wrpPan c v => commandWord 2 c 0x14 v
  | .wrpPanCvBus c v => commandWord 2 c 0x15 v
  | .wrpPanCvDepth c v => commandWord 2 c 0x16 v
  | .blkstart => commandWord 3 0 0 0
  | .frame => commandWord 4 0 0 0

/-- The command word of a table row's number: `w`'s low `nbits` bits, every bit above them 0. A word is
presented whole and has no byte order (20_memory.md R69). -/
def tableWord (nbits w : Nat) : Word := BitVec.ofNat 32 (w % 2 ^ nbits)

/-- What the decoder reads from an instruction numbered as spec/opcode_table.json numbers it. -/
def decodeTableWord (nbits w : Nat) : Option Instr :=
  match decode (tableWord nbits w) with
  | .command i => some i
  | .reserved _ => none

/-- A command's mnemonic (30_encoding.md R93, R96). -/
def mnemonic : Instr → String
  | .nop => "NOP"
  | .construct _ => "CONSTRUCT"
  | .wrpOutL _ => "WRP.OUT_L"
  | .wrpOutR _ => "WRP.OUT_R"
  | .wrpOutMode _ => "WRP.OUT_MODE"
  | .wrpMaster _ => "WRP.MASTER"
  | .wrpSat _ => "WRP.SAT"
  | .wrpSquash _ => "WRP.SQUASH"
  | .wrpLookahead _ => "WRP.LOOKAHEAD"
  | .wrpFbDelay _ => "WRP.FBDELAY"
  | .wrpInBus _ _ => "WRP.IN_BUS"
  | .wrpFb _ _ => "WRP.FB"
  | .wrpFbCvBus _ _ => "WRP.FBCV_BUS"
  | .wrpFbCvDepth _ _ => "WRP.FBCV_DEPTH"
  | .wrpPan _ _ => "WRP.PAN"
  | .wrpPanCvBus _ _ => "WRP.PANCV_BUS"
  | .wrpPanCvDepth _ _ => "WRP.PANCV_DEPTH"
  | .blkstart => "BLKSTART"
  | .frame => "FRAME"

/-- The operand text of a per-channel command, `c<k>, v` (30_encoding.md R100). -/
def channelOperands (c : ChField) (v : Raw) : String :=
  " c" ++ toString c.toNat ++ ", " ++ toString v.toInt

/-- The operands as the assembler writes them: decimal integers (30_encoding.md R100). -/
def operandText : Instr → String
  | .nop | .blkstart | .frame => ""
  | .construct v | .wrpOutL v | .wrpOutR v | .wrpOutMode v | .wrpMaster v => " " ++ toString v.toInt
  | .wrpSat v | .wrpSquash v | .wrpLookahead v | .wrpFbDelay v => " " ++ toString v.toInt
  | .wrpInBus c v | .wrpFb c v | .wrpFbCvBus c v | .wrpFbCvDepth c v => channelOperands c v
  | .wrpPan c v | .wrpPanCvBus c v | .wrpPanCvDepth c v => channelOperands c v

/-- The textual form of a command (30_encoding.md R100). -/
def asmText (i : Instr) : String := mnemonic i ++ operandText i

/-- The pseudo-instruction `BLOCK n`: `BLKSTART` and `n` times `FRAME` (30_encoding.md R101). -/
def blockWords (n : Nat) : List Word := encode .blkstart :: List.replicate n (encode .frame)

/-- The pseudo-instruction `WRP.<C> *, v` for a program whose `CONSTRUCT` asks for `N` channels: the
command for every channel `0..N-1` (30_encoding.md R101). -/
def wrpAllWords (cmd : ChField → Raw → Instr) (N : Nat) (v : Raw) : List Word :=
  (List.range N).map fun k => encode (cmd (BitVec.ofNat 4 k) v)

end Sys2Proof
end

