-- ==== Sys2Proof/Config.lean ====
section
/-! DEFINITION. What an implementation fixes: the numeric type `NUM` (00_scope.md R14), the
configuration record (R10), and the constants without a value that stand for the spec's open
parameters and free values. -/

namespace Sys2Proof

/-- The carrier of `NUM` in State: closed expressions over the rationals. In exact arithmetic an
expression stands for the real number it denotes (R14's reference instantiation); another arithmetic
uses the same data as names of its own values. DESIGN CHOICE, log 1. -/
inductive NumVal where
  | rat (q : Rat)
  | halfPi
  | twoPi
  | add (a b : NumVal)
  | sub (a b : NumVal)
  | mul (a b : NumVal)
  | div (a b : NumVal)
  | abs (a : NumVal)
  | max (a b : NumVal)
  | tanh (a : NumVal)
  | cos (a : NumVal)
  | sin (a : NumVal)
  | exp (a : NumVal)
  deriving DecidableEq, Repr, Inhabited

/-- The record `NUM` over a carrier (00_scope.md R14). `a > b` and `a >= b` of the rules are
`lt b a` and `le b a`. -/
structure NumOps (α : Type) where
  /-- `num(z)` -/
  ofInt : Int → α
  /-- `lit(q)`, a decimal literal written in a rule -/
  lit : Rat → α
  halfPi : α
  twoPi : α
  add : α → α → α
  sub : α → α → α
  mul : α → α → α
  div : α → α → α
  abs : α → α
  max : α → α → α
  lt : α → α → Bool
  le : α → α → Bool
  eq : α → α → Bool
  tanh : α → α
  cos : α → α
  sin : α → α
  exp : α → α
  deriving Inhabited

/-- The five coefficients `(cR, cS, cA, cRl, cG)` (10_state.md R36). -/
structure Coeffs (α : Type) where
  cR : α
  cS : α
  cA : α
  cRl : α
  cG : α
  deriving DecidableEq, Repr, Inhabited

/-- Which `NUM` an instance is built with (00_scope.md R10, R14; 92_eei_decisions.md D2). -/
inductive Arith where
  /-- The reference instantiation: exact reals. -/
  | exactReals
  /-- Any other: the `k`-th of an arbitrary family of arithmetics. -/
  | implementation (k : Nat)
  deriving DecidableEq, Repr, Inhabited

/-- The configuration of an instance (00_scope.md R10). Nothing in it changes while the hardware runs.
`coefTable` lists the rates at which the builder fixed all five coefficients; `COEF` of a 32-bit rate is
a finite map, so a table can give any `COEF` (log 4). -/
structure Cfg where
  arith : Arith
  fbBufSize : Nat
  laBufSize : Nat
  nb : Nat
  vMax : NumVal
  vMin : NumVal
  coefTable : List (Rate × Coeffs NumVal)
  deriving DecidableEq, Repr, Inhabited

namespace Config

/-- `MAX_CH` (R10). -/
def maxCh : Int := 8
/-- `MIN_CH` (R10). -/
def minCh : Int := 1
/-- `MAX_MS_RAW`, 20 ms in tenths of a millisecond (R10). -/
def maxMsRaw : Nat := 200
/-- `MIN_MS_RAW`, 0.5 ms. Like `MAX_MS_RAW` a nominal bound: no command enforces it on a raw value
(R10, 47_host_commands.md R230). -/
def minMsRaw : Nat := 5
/-- `MAX_FS`, the rate in Hz the rings are sized for (R10). -/
def maxFs : Nat := 96000
/-- The default size of both rings: the longest nominal delay at `MAX_FS` (R10, R16). -/
def defaultBufSize : Nat := maxMsRaw * maxFs / 10000

/-- The arithmetics other than the reference: nothing is known of them (R14, D2; log 1). -/
opaque implNum : Nat → NumOps NumVal

/-- `K_ATTACK`, `K_RELEASE`, `K_GAIN` before they are brought into their range: OPEN functions of the
rate (R36, D19; log 6). -/
opaque kAttack : Rate → NumVal
opaque kRelease : Rate → NumVal
opaque kGain : Rate → NumVal

/-- `NB` at `State.reset`, before it is brought into `1..32767` (OPEN, D11; log 5). -/
opaque openNb : Nat
/-- `VMIN` and `VMAX - VMIN` at `State.reset`, before they are brought into range (OPEN, D18; log 5). -/
opaque openVMin : Rat
opaque openSpan : Rat

/-- Free values, one for each value of State's counter `free` (log 22): a value the spec calls
unspecified after which the machine goes on. -/
opaque freeNum : Nat → NumVal
opaque freeCount : Nat → Nat

/-- `VMIN` at `State.reset`: any positive rational (log 5). -/
def resetVMin : Rat := if 0 < openVMin then openVMin else 1

/-- The configuration at `State.reset`: the spec's defaults where it has one, and an unknown legal value
where it says OPEN (log 5). -/
def cfg : Cfg where
  arith := .exactReals
  fbBufSize := defaultBufSize
  laBufSize := defaultBufSize
  nb := 1 + openNb % 32767
  vMax := .rat (resetVMin + |openSpan|)
  vMin := .rat resetVMin
  coefTable := []

end Config
end Sys2Proof
end

