-- ==== Sys2Proof/Machine/Arith.lean ====
section
/-! DEFINITION. The arithmetic an instance is built with: exact arithmetic on `NumVal`, and the choice
between it and an unknown one (00_scope.md R14). -/

namespace Sys2Proof.Machine

/-- The word an unlisted address reads as, and `num(0)` of every arithmetic: `num(0)` is the construct
value of every ring word (10_state.md R57; log 3, log 13). -/
def zeroWord : NumVal := .rat 0

/-- Exact sum: computed on rationals, otherwise the expression. -/
def exactAdd (a b : NumVal) : NumVal :=
  match a, b with
  | .rat p, .rat q => .rat (p + q)
  | a, b => if a = .rat 0 then b else if b = .rat 0 then a else .add a b

/-- Exact difference; equal expressions differ by 0. -/
def exactSub (a b : NumVal) : NumVal :=
  match a, b with
  | .rat p, .rat q => .rat (p - q)
  | a, b => if a = b then .rat 0 else if b = .rat 0 then a else .sub a b

/-- Exact product. -/
def exactMul (a b : NumVal) : NumVal :=
  match a, b with
  | .rat p, .rat q => .rat (p * q)
  | a, b =>
    if a = .rat 0 ∨ b = .rat 0 then .rat 0
    else if a = .rat 1 then b
    else if b = .rat 1 then a
    else .mul a b

/-- Exact quotient. A quotient by the rational 0 stays an expression: the rules never divide by 0 and
no value is given to it (R14; log 21). -/
def exactDiv (a b : NumVal) : NumVal :=
  match a, b with
  | .rat p, .rat q => if q = 0 then .div a b else .rat (p / q)
  | a, b => if b = .rat 1 then a else .div a b

/-- Exact absolute value. -/
def exactAbs : NumVal → NumVal
  | .rat p => .rat |p|
  | a => .abs a

/-- Exact maximum. -/
def exactMax (a b : NumVal) : NumVal :=
  match a, b with
  | .rat p, .rat q => .rat (max p q)
  | a, b => if a = b then a else .max a b

/-- The real number an expression denotes. A quotient by 0, which no rule forms, is Lean's (log 21). -/
noncomputable def realValue : NumVal → ℝ
  | .rat q => (q : ℝ)
  | .halfPi => Real.pi / 2
  | .twoPi => 2 * Real.pi
  | .add a b => realValue a + realValue b
  | .sub a b => realValue a - realValue b
  | .mul a b => realValue a * realValue b
  | .div a b => realValue a / realValue b
  | .abs a => |realValue a|
  | .max a b => max (realValue a) (realValue b)
  | .tanh a => Real.tanh (realValue a)
  | .cos a => Real.cos (realValue a)
  | .sin a => Real.sin (realValue a)
  | .exp a => Real.exp (realValue a)

/-- Whether one expression denotes a smaller real number than another. The TYPE says which answer this
is; there is no algorithm behind it, and run as a program it does not return (log 2). -/
def realLtDecision (a b : NumVal) : Decidable (realValue a < realValue b) := realLtDecision a b
partial_fixpoint

/-- `a < b` of the reference arithmetic: the order of the real numbers (R14). Rationals are compared by
computation, and an expression is not below itself. -/
def exactLt (a b : NumVal) : Bool :=
  match a, b with
  | .rat p, .rat q => decide (p < q)
  | a, b => if a = b then false else @decide (realValue a < realValue b) (realLtDecision a b)

/-- `a <= b` of a total order: not `b < a`. -/
def exactLe (a b : NumVal) : Bool := !exactLt b a

/-- `a = b` of a total order: neither is below the other. -/
def exactEq (a b : NumVal) : Bool := !exactLt a b && !exactLt b a

/-- `tanh`, with `tanh(0) = 0` (93_implementation_defined.md section 3, `tanh_zero`). -/
def exactTanh (a : NumVal) : NumVal := if a = .rat 0 then .rat 0 else .tanh a

/-- `cos`, with `cos(0) = 1` and `cos(HALF_PI) = 0` (section 3, `cos_zero`, `cos_half_pi`). -/
def exactCos (a : NumVal) : NumVal :=
  if a = .rat 0 then .rat 1 else if a = .halfPi then .rat 0 else .cos a

/-- `sin`, with `sin(0) = 0` and `sin(HALF_PI) = 1` (section 3, `sin_zero`, `sin_half_pi`). -/
def exactSin (a : NumVal) : NumVal :=
  if a = .rat 0 then .rat 0 else if a = .halfPi then .rat 1 else .sin a

/-- `exp`, with `exp(0) = 1`. No rule uses it (R14). -/
def exactExp (a : NumVal) : NumVal := if a = .rat 0 then .rat 1 else .exp a

/-- The reference instantiation of `NUM`, exact reals (00_scope.md R14). -/
def exactOps : NumOps NumVal where
  ofInt z := .rat z
  lit q := .rat q
  halfPi := .halfPi
  twoPi := .twoPi
  add := exactAdd
  sub := exactSub
  mul := exactMul
  div := exactDiv
  abs := exactAbs
  max := exactMax
  lt := exactLt
  le := exactLe
  eq := exactEq
  tanh := exactTanh
  cos := exactCos
  sin := exactSin
  exp := exactExp

/-- The `k`-th unknown arithmetic, with its `num(0)` named `zeroWord` (log 3). -/
def implOps (k : Nat) : NumOps NumVal :=
  { Config.implNum k with ofInt := fun z => if z = 0 then zeroWord else (Config.implNum k).ofInt z }

/-- The `NUM` of a configuration (00_scope.md R10). -/
def arithOps : Arith → NumOps NumVal
  | .exactReals => exactOps
  | .implementation k => implOps k

/-- The open attack and release steps brought into `0 < cRl <= cA <= 1`, as a pair (10_state.md R36;
log 6). -/
def attackRelease (N : NumOps NumVal) (attack release : NumVal) : NumVal × NumVal :=
  if N.lt (N.ofInt 0) release && N.le release attack && N.le attack (N.ofInt 1) then (attack, release)
  else (N.ofInt 1, N.ofInt 1)

/-- The open gain step brought into `0 < cG <= 1` (10_state.md R36; log 6). -/
def gainStep (N : NumOps NumVal) (gain : NumVal) : NumVal :=
  if N.lt (N.ofInt 0) gain && N.le gain (N.ofInt 1) then gain else N.ofInt 1

/-- `COEF` where the configuration lists no rate: the source's pole for the DC blocker, `2π·50/fs` for
the smoother, and the three open steps in their range (10_state.md R36). -/
def defaultCoef (N : NumOps NumVal) (fs : Rate) : Coeffs NumVal where
  cR := N.sub (N.ofInt 1) (N.div (N.mul N.twoPi (N.ofInt 5)) (N.ofInt fs.toNat))
  cS := N.div (N.mul N.twoPi (N.ofInt 50)) (N.ofInt fs.toNat)
  cA := (attackRelease N (Config.kAttack fs) (Config.kRelease fs)).1
  cRl := (attackRelease N (Config.kAttack fs) (Config.kRelease fs)).2
  cG := gainStep N (Config.kGain fs)

/-- `COEF` of a configuration (10_state.md R36). -/
def coefOf (C : Cfg) (fs : Rate) : Coeffs NumVal :=
  match C.coefTable.find? fun e => e.1 = fs with
  | some e => e.2
  | none => defaultCoef (arithOps C.arith) fs

end Sys2Proof.Machine
end

