-- ==== Sys2Proof/Machine/State.lean ====
section
/-! DEFINITION. The state of SEYMOUR-CORE and its host, as plain data (10_state.md R20), and why a
step can stop. -/

namespace Sys2Proof.Machine

/-- A memory space: (address, word) pairs in the canonical form `Memory.wf`; a word is a `NUM`
(20_memory.md R60, R69). -/
abbrev Memory := List (Nat × NumVal)

/-- `L.mode` (10_state.md R40). -/
inductive OutMode where
  | accumulate
  | overwrite
  deriving DecidableEq, Repr, Inhabited

/-- `L.sat` (10_state.md R42). -/
inductive SatCurve where
  | soft
  | tube
  | hard
  deriving DecidableEq, Repr, Inhabited

/-- The runtime registers of one channel (10_state.md R24, R25, R27). -/
structure ChanRun where
  sFb : NumVal
  sPan : NumVal
  dcX1 : NumVal
  dcY1 : NumVal
  deriving DecidableEq, Repr, Inhabited

/-- The seven raw parameters of one channel (10_state.md R46 to R52). -/
structure ChanRaw where
  inBus : Raw
  fb : Raw
  fbCvBus : Raw
  fbCvDepth : Raw
  pan : Raw
  panCvBus : Raw
  panCvDepth : Raw
  deriving DecidableEq, Repr, Inhabited

/-- The raw parameter array `P` (10_state.md R37 to R52). -/
structure RawParams where
  outL : Raw
  outR : Raw
  outMode : Raw
  master : Raw
  sat : Raw
  squash : Raw
  lookahead : Raw
  fbDelay : Raw
  chan : Vector ChanRaw 8
  deriving DecidableEq, Repr, Inhabited

/-- The latched parameters of one channel (10_state.md R53). -/
structure ChanLatched where
  inBus : Int
  tFb : NumVal
  fbCvBus : Int
  dFb : NumVal
  tPan : NumVal
  panCvBus : Int
  dPan : NumVal
  deriving DecidableEq, Repr, Inhabited

/-- The latched parameters `L` (10_state.md R53); `S.thr`, which the latch also writes, is a field of
`Instance`. -/
structure Latched where
  outL : Int
  outR : Int
  mode : OutMode
  tMaster : NumVal
  sat : SatCurve
  chan : Vector ChanLatched 8
  deriving DecidableEq, Repr, Inhabited

/-- The architectural state of one instance, exactly the list of 10_state.md R20. -/
structure Instance where
  /-- `S.run` (R21) -/
  run : Bool
  /-- `S.N` (R22) -/
  n : Nat
  /-- `S.fs` (R23) -/
  fs : Rate
  /-- `S.cR, S.cS, S.cA, S.cRl, S.cG` (R36) -/
  coef : Coeffs NumVal
  /-- `S.sFb[c], S.sPan[c], S.dcX1[c], S.dcY1[c]` (R24, R25, R27) -/
  chan : Vector ChanRun 8
  /-- `S.sMaster` (R26) -/
  sMaster : NumVal
  /-- the feedback ring `FB` (R57) -/
  fb : Memory
  /-- `S.fbW` (R28) -/
  fbW : Nat
  /-- `S.fbDelay` (R29) -/
  fbDelay : Nat
  /-- the lookahead ring `LA` (R57) -/
  la : Memory
  /-- `S.laW` (R30) -/
  laW : Nat
  /-- `S.laLen` (R31) -/
  laLen : Nat
  /-- `S.env` (R32) -/
  env : NumVal
  /-- `S.gr` (R33) -/
  gr : NumVal
  /-- `S.thr` (R34) -/
  thr : NumVal
  /-- the raw parameter registers `P` (R37) -/
  raw : RawParams
  /-- the latched parameter registers `L` (R53) -/
  latched : Latched
  deriving DecidableEq, Repr, Inhabited

/-- What the host may do between two commands (00_scope.md R8, 30_encoding.md R90; log 14). -/
inductive HostMove where
  /-- present one command word on the command port -/
  | command (w : Word)
  /-- drive the sample-rate port, the directive `.fs` (R100) -/
  | setRate (f : Rate)
  /-- write a lane of the bus frame, the directive `.bus` (R67, R100) -/
  | setLane (i : Nat) (v : NumVal)
  /-- assert `rst` (70_reset_and_hazards.md R290) -/
  | assertReset
  deriving DecidableEq, Repr, Inhabited

/-- The machine: the instance, what the host owns and a command can see (`bus`, `hostFs`), and the
model's own fields `cfg` (log 4), `port` (log 14) and `free` (log 22). -/
structure State where
  inst : Instance
  /-- `BUS`, the current audio frame (20_memory.md R67) -/
  bus : Memory
  /-- the port `HOST.fs` (30_encoding.md R90) -/
  hostFs : Rate
  /-- the configuration, constant while the machine runs (00_scope.md R10) -/
  cfg : Cfg
  /-- the host's coming moves, the oldest first -/
  port : List HostMove
  /-- how many free values have been drawn -/
  free : Nat
  deriving DecidableEq, Repr, Inhabited

/-- Why the machine stops. CORE itself has no fault (60_exceptions.md R260). -/
inductive Fault where
  /-- Raised by a step whose host move writes a bus lane that does not exist: address 0 or above `NB`
  (20_memory.md R72). Safe: the spec gives such a write no meaning, and no command raises it. -/
  | noSuchLane (i : Nat)
  deriving DecidableEq, Repr

/-- Why an answer is refused. -/
inductive Refusal where
  /-- Kept for an arm of exec whose instruction has no meaning; none is left. Safe: nothing is claimed. -/
  | notModelled (mnemonic : String)
  /-- Raised by `State.boot` alone, on a configuration that fails 00_scope.md R11 (60_exceptions.md R266,
  `IllFormedConfig`, not buildable). Safe: no machine exists with such a configuration. -/
  | illFormedConfig
  deriving DecidableEq, Repr

/-- What an instance's registers and rings hold after `rst`, but for `S.run`: unspecified
(70_reset_and_hazards.md R290), a free value for each time (log 11). -/
opaque Config.afterRst : Nat → Instance

/-- The registers of an instance that is not constructed, at `State.reset`. Only `run` is the spec's
(R290); every other value is a DESIGN CHOICE (log 12). -/
def Instance.blank : Instance where
  run := false
  n := 0
  fs := 0
  coef := ⟨zeroWord, zeroWord, zeroWord, zeroWord, zeroWord⟩
  chan := Vector.replicate 8 ⟨zeroWord, zeroWord, zeroWord, zeroWord⟩
  sMaster := zeroWord
  fb := []
  fbW := 0
  fbDelay := 0
  la := []
  laW := 0
  laLen := 0
  env := zeroWord
  gr := zeroWord
  thr := zeroWord
  raw := ⟨0, 0, 0, 0, 0, 0, 0, 0, Vector.replicate 8 ⟨0, 0, 0, 0, 0, 0, 0⟩⟩
  latched := ⟨0, 0, .accumulate, zeroWord, .soft,
    Vector.replicate 8 ⟨0, zeroWord, 0, zeroWord, zeroWord, 0, zeroWord⟩⟩

/-- The machine right after hardware reset (70_reset_and_hazards.md R290): no instance runs, the host
has driven nothing, and no move of the host is waiting (log 12, log 13, log 14, log 15). -/
def State.reset : State where
  inst := Instance.blank
  bus := []
  hostFs := 0
  cfg := Config.cfg
  port := []
  free := 0

/-- Named updates. Their lemmas stand in Laws/State.lean. -/
def State.setInst (s : State) (i : Instance) : State := { s with inst := i }
def State.setBus (s : State) (m : Memory) : State := { s with bus := m }
def State.setHostFs (s : State) (f : Rate) : State := { s with hostFs := f }
def State.setPort (s : State) (q : List HostMove) : State := { s with port := q }
def State.setFree (s : State) (k : Nat) : State := { s with free := k }

def Instance.setRun (i : Instance) (b : Bool) : Instance := { i with run := b }
def Instance.setRate (i : Instance) (f : Rate) (c : Coeffs NumVal) : Instance :=
  { i with fs := f, coef := c }
def Instance.setChan (i : Instance) (c : Fin 8) (r : ChanRun) : Instance :=
  { i with chan := i.chan.set c r }
def Instance.setMaster (i : Instance) (v : NumVal) : Instance := { i with sMaster := v }
def Instance.setFb (i : Instance) (m : Memory) : Instance := { i with fb := m }
def Instance.setFbW (i : Instance) (k : Nat) : Instance := { i with fbW := k }
def Instance.setFbDelay (i : Instance) (k : Nat) : Instance := { i with fbDelay := k }
def Instance.setLa (i : Instance) (m : Memory) : Instance := { i with la := m }
def Instance.setLaW (i : Instance) (k : Nat) : Instance := { i with laW := k }
def Instance.setLaLen (i : Instance) (k : Nat) : Instance := { i with laLen := k }
def Instance.setEnv (i : Instance) (v : NumVal) : Instance := { i with env := v }
def Instance.setGr (i : Instance) (v : NumVal) : Instance := { i with gr := v }
def Instance.setRaw (i : Instance) (p : RawParams) : Instance := { i with raw := p }
def Instance.setLatch (i : Instance) (l : Latched) (t : NumVal) : Instance :=
  { i with latched := l, thr := t }

end Sys2Proof.Machine
end

