-- ==== Sys2Proof/Machine/Operands.lean ====
section
/-! DEFINITION. How operands are read: the signed immediate, integer clamps, milliseconds, the channel
operand, and what a raw parameter means when it is latched. -/

namespace Sys2Proof.Machine

/-- `sext_16(imm)`: the immediate is always signed (30_encoding.md R94). -/
def signed (v : Raw) : Int := v.toInt

/-- `clampi(v, lo, hi)` on integers (00_scope.md R12). -/
def clampi (v lo hi : Int) : Int := if v < lo then lo else if hi < v then hi else v

/-- `ms2samp(raw, fs)`: tenths of a millisecond to samples, rounded down (00_scope.md R16). -/
def ms2samp (raw : Int) (fs : Nat) : Int := if raw ≤ 0 then 0 else raw * fs / 10000

/-- `S.laLen` from a sample count (45_limiter.md R191). -/
def clampLookahead (C : Cfg) (count : Int) : Nat := (clampi count 1 C.laBufSize).toNat

/-- `S.fbDelay` from a sample count (42_feedback_dcblock.md R146). -/
def clampFbDelay (C : Cfg) (count : Int) : Nat := (clampi count 1 ((C.fbBufSize : Int) - 1)).toNat

/-- `S.N` from the operand of `CONSTRUCT` (47_host_commands.md R221). -/
def channelCount (n : Raw) : Nat := (clampi (signed n) Config.minCh Config.maxCh).toNat

/-- The channel a per-channel command names, if the instance has it: `c < S.N`, and there are registers
for `0..7` only (47_host_commands.md R222). -/
def channelOf (i : Instance) (c : ChField) : Option (Fin 8) :=
  if h : c.toNat < 8 then (if c.toNat < i.n then some ⟨c.toNat, h⟩ else none) else none

/-- The channels of an instance in ascending order, `0 .. S.N-1` (00_scope.md R13, R19). -/
def channels (i : Instance) : List (Fin 8) := (List.finRange 8).take i.n

/-- A bank of one value for each of the channels `0..7`. -/
def bank8 {α : Type} (f : Fin 8 → α) : Vector α 8 := #v[f 0, f 1, f 2, f 3, f 4, f 5, f 6, f 7]

/-- `clamp(v, lo, hi)` on `NUM` (00_scope.md R14). -/
def clampN {α : Type} (N : NumOps α) (v lo hi : α) : α :=
  if N.lt v lo then lo else if N.lt hi v then hi else v

/-- A percent parameter: `num(clampi(raw, 0, 100)) / num(100)` (10_state.md R41, R47, R49, R52). -/
def percent {α : Type} (N : NumOps α) (v : Raw) : α :=
  N.div (N.ofInt (clampi (signed v) 0 100)) (N.ofInt 100)

/-- The pan parameter: `num(clampi(raw, -100, 100))` (10_state.md R50). -/
def panTarget {α : Type} (N : NumOps α) (v : Raw) : α := N.ofInt (clampi (signed v) (-100) 100)

/-- The output mode: 1 overwrites, every other value accumulates (10_state.md R40). -/
def modeOf (v : Raw) : OutMode := if signed v = 1 then .overwrite else .accumulate

/-- The saturation selector: 1 Tube, 2 Hard, every other value Soft (10_state.md R42). -/
def satOf (v : Raw) : SatCurve :=
  if signed v = 1 then .tube else if signed v = 2 then .hard else .soft

/-- `THRESH(raw)` (46_mixengine_frame.md R211): linear from `VMAX` to `VMIN`, guarded into their range. -/
def thresh {α : Type} (N : NumOps α) (vMax vMin : α) (v : Raw) : α :=
  let t := N.add vMax (N.mul (percent N v) (N.sub vMin vMax))
  let t := if N.lt t vMin then vMin else t
  if N.lt vMax t then vMax else t

end Sys2Proof.Machine
end

