-- ==== Sys2Proof/Machine/Flags.lean ====
section
/-! DEFINITION. SEYMOUR-CORE has no flags (10_state.md R54): every data-dependent choice is computed
from the values of the frame. These are those choices (46_mixengine_frame.md R209). -/

namespace Sys2Proof.Machine

/-- `busValid(i)`: `1 <= i <= NB` (20_memory.md R68). -/
def busValid (C : Cfg) (i : Int) : Bool := decide (1 ≤ i ∧ i ≤ C.nb)

/-- The attack step when the peak is above the envelope, else the release step: strict, so equality
releases (45_limiter.md R184). -/
def envStep {α : Type} (N : NumOps α) (k : Coeffs α) (env peak : α) : α :=
  if N.lt env peak then k.cA else k.cRl

/-- Gain reduction is active, or the envelope exceeds the threshold (45_limiter.md R188). -/
def engaged {α : Type} (N : NumOps α) (gr env thr : α) : Bool := N.lt gr (N.ofInt 1) || N.lt thr env

end Sys2Proof.Machine
end

