-- ==== Sys2Proof/Machine/Signal.lean ====
section
/-! DEFINITION. The arithmetic of the micro-operations, over any `NUM`: one operation for each written
operator, in the order and grouping of the rules (00_scope.md R14). -/

namespace Sys2Proof.Machine

/-- `SMOOTH`: `prev + k · (target - prev)` (40_smoother.md R121). -/
def smooth {α : Type} (N : NumOps α) (k prev target : α) : α :=
  N.add prev (N.mul k (N.sub target prev))

/-- The rectified feedback CV, `clamp(v/5 · 0.5 + 0.5, 0, 1)` (41_cv_modulation.md R131). -/
def unipolarCv {α : Type} (N : NumOps α) (v : α) : α :=
  clampN N (N.add (N.mul (N.div v (N.ofInt 5)) (N.lit (1 / 2))) (N.lit (1 / 2))) (N.ofInt 0) (N.ofInt 1)

/-- The blend of `CVFB`: `base · (1 - d) + u · d` (41_cv_modulation.md R131). -/
def cvFbBlend {α : Type} (N : NumOps α) (base depth v : α) : α :=
  N.add (N.mul base (N.sub (N.ofInt 1) depth)) (N.mul (unipolarCv N v) depth)

/-- The sum of `CVPAN`: `clamp(base + v/5 · (100 · d), -100, 100)` (41_cv_modulation.md R133). -/
def cvPanSum {α : Type} (N : NumOps α) (base depth v : α) : α :=
  clampN N (N.add base (N.mul (N.div v (N.ofInt 5)) (N.mul (N.ofInt 100) depth)))
    (N.ofInt (-100)) (N.ofInt 100)

/-- `DCBLOCK`'s output `(x - x1) + R · y1` (42_feedback_dcblock.md R143). -/
def dcOut {α : Type} (N : NumOps α) (r x1 y1 x : α) : α := N.add (N.sub x x1) (N.mul r y1)

/-- `FBSUM`: `x + y · fbEff` (42_feedback_dcblock.md R144). -/
def fbSum {α : Type} (N : NumOps α) (x y fbEff : α) : α := N.add x (N.mul y fbEff)

/-- The angle of `PAN`: `(pan + 100)/200 · π/2` (43_panner.md R160). -/
def panAngle {α : Type} (N : NumOps α) (panEff : α) : α :=
  N.mul (N.div (N.add panEff (N.ofInt 100)) (N.ofInt 200)) N.halfPi

/-- `PAN`: the two gains (43_panner.md R160). -/
def pan {α : Type} (N : NumOps α) (panEff : α) : α × α :=
  (N.cos (panAngle N panEff), N.sin (panAngle N panEff))

/-- `SAT.SOFT` (44_saturation.md R171). -/
def satSoft {α : Type} (N : NumOps α) (x : α) : α := N.tanh x

/-- `SAT.TUBE` (44_saturation.md R172). -/
def satTube {α : Type} (N : NumOps α) (x : α) : α :=
  if N.le (N.ofInt 0) x then N.mul (N.tanh (N.mul (N.lit (8 / 10)) x)) (N.lit (11 / 10))
  else N.mul (N.tanh (N.mul (N.lit (12 / 10)) x)) (N.lit (9 / 10))

/-- The magnitude of `SAT.HARD` above 0.8: the knee up to 1, then 1 (44_saturation.md R173). -/
def hardMagnitude {α : Type} (N : NumOps α) (a : α) : α :=
  if N.le a (N.ofInt 1) then
    N.add (N.lit (8 / 10)) (N.mul (N.sub a (N.lit (8 / 10))) (N.lit (1 / 2)))
  else N.ofInt 1

/-- `SAT.HARD` (44_saturation.md R173). -/
def satHard {α : Type} (N : NumOps α) (x : α) : α :=
  if N.le (N.abs x) (N.lit (8 / 10)) then x
  else if N.lt x (N.ofInt 0) then N.sub (N.ofInt 0) (hardMagnitude N (N.abs x))
  else hardMagnitude N (N.abs x)

/-- `SAT(sel, x)` (44_saturation.md R170, R174). -/
def sat {α : Type} (N : NumOps α) (sel : SatCurve) (x : α) : α :=
  match sel with
  | .soft => satSoft N x
  | .tube => satTube N x
  | .hard => satHard N x

/-- `SATN(sel, v, thr)`: the curve on the signal normalised by the threshold (44_saturation.md R170). -/
def satN {α : Type} (N : NumOps α) (sel : SatCurve) (v thr : α) : α :=
  N.mul (sat N sel (N.div v thr)) thr

/-- The peak of the current sample (45_limiter.md R183). -/
def peakOf {α : Type} (N : NumOps α) (l r : α) : α := N.max (N.abs l) (N.abs r)

/-- The envelope update (45_limiter.md R184). -/
def envNext {α : Type} (N : NumOps α) (k : Coeffs α) (env peak : α) : α :=
  N.add env (N.mul (envStep N k env peak) (N.sub peak env))

/-- The target gain (45_limiter.md R185). -/
def gainTarget {α : Type} (N : NumOps α) (env thr : α) : α :=
  if N.le env thr then N.ofInt 1 else N.div thr env

/-- The smoothed gain (45_limiter.md R186). -/
def gainNext {α : Type} (N : NumOps α) (k : Coeffs α) (gr target : α) : α :=
  N.add gr (N.mul k.cG (N.sub target gr))

/-- The output of one side: the delayed sample times the gain, through the curve when it is engaged
(45_limiter.md R187, R188). -/
def limitSide {α : Type} (N : NumOps α) (sel : SatCurve) (gr env thr d : α) : α :=
  if engaged N gr env thr then satN N sel (N.mul d gr) thr else N.mul d gr

end Sys2Proof.Machine
end

