-- ==== Sys2Proof/Machine/Ops.lean ====
section
/-! DEFINITION. The named operations over memories and registers that the commands share. SEYMOUR-CORE
takes no exception (60_exceptions.md R260): what stands in that place is a command it ignores (R266),
`ignored`, one shared operation. -/

namespace Sys2Proof.Machine

/-- `MemRead(space, a)`; an unlisted address reads as `zeroWord` (00_scope.md R13; log 13). -/
def memRead : Memory → Nat → NumVal
  | [], _ => zeroWord
  | (b, v) :: rest, a => if a = b then v else memRead rest a

/-- `MemWrite(space, a, v)`, keeping the canonical form (00_scope.md R13; log 13). -/
def memWrite : Memory → Nat → NumVal → Memory
  | [], a, v => if v = zeroWord then [] else [(a, v)]
  | (b, w) :: rest, a, v =>
    if a < b then (if v = zeroWord then (b, w) :: rest else (a, v) :: (b, w) :: rest)
    else if a = b then (if v = zeroWord then rest else (a, v) :: rest)
    else (b, w) :: memWrite rest a v

/-- The addresses listed rise strictly, all above `lo` when it is given, and no listed word is the word
an unlisted address reads as. -/
def memSorted : Option Nat → Memory → Bool
  | _, [] => true
  | lo, (a, v) :: rest => lo.all (· < a) && decide (v ≠ zeroWord) && memSorted (some a) rest

/-- The canonical form of a memory: equal memories are equal data. -/
def Memory.wf (m : Memory) : Bool := memSorted none m

/-- The canonical memory that holds the words of a list of writes. -/
def memOfWrites (m : Memory) : Memory := m.foldl (fun acc p => memWrite acc p.1 p.2) []

/-- `fbAddr(s, c)` (20_memory.md R61). -/
def fbAddr (i : Instance) (slot : Nat) (c : Nat) : Nat := slot * i.n + c

/-- `laAddr(s, d)`, side 0 left and 1 right (20_memory.md R64). -/
def laAddr (slot side : Nat) : Nat := 2 * slot + side

/-- The read slot of a ring: `(write + size - length) mod size` (20_memory.md R62, R65). -/
def ringRead (size write length : Nat) : Nat := (write + size - length) % size

/-- A ring's write index moves on by one (42_feedback_dcblock.md R147, 45_limiter.md R189). -/
def ringNext (size write : Nat) : Nat := (write + 1) % size

/-- A command the hardware ignores: accepted, no state or bus change, nothing reported
(60_exceptions.md R266, 47_host_commands.md R222; log 7). -/
def ignored (s : State) : Host.Outcome State Fault Refusal := .next s

/-- A command that works on a running instance and is ignored when there is none
(60_exceptions.md R263, R266 `NotConstructed`). -/
def whenRunning (s : State) (f : State → State) : Host.Outcome State Fault Refusal :=
  if s.inst.run then .next (f s) else ignored s

/-- The channel part of `LATCH` (46_mixengine_frame.md R210). -/
def latchChan (N : NumOps NumVal) (p : ChanRaw) : ChanLatched where
  inBus := signed p.inBus
  tFb := percent N p.fb
  fbCvBus := signed p.fbCvBus
  dFb := percent N p.fbCvDepth
  tPan := panTarget N p.pan
  panCvBus := signed p.panCvBus
  dPan := percent N p.panCvDepth

/-- The latched registers a raw parameter array gives (46_mixengine_frame.md R210). -/
def latchOf (N : NumOps NumVal) (p : RawParams) : Latched where
  outL := signed p.outL
  outR := signed p.outR
  mode := modeOf p.outMode
  tMaster := percent N p.master
  sat := satOf p.sat
  chan := bank8 fun c => latchChan N p.chan[c]

/-- `LATCH`: every `L` register and `S.thr` (46_mixengine_frame.md R210, R211). -/
def latch (C : Cfg) (i : Instance) : Instance :=
  i.setLatch (latchOf (arithOps C.arith) i.raw)
    (thresh (arithOps C.arith) C.vMax C.vMin i.raw.squash)

/-- Five free values in the place of the coefficients (log 9). -/
def freeCoef (k : Nat) : Coeffs NumVal :=
  ⟨Config.freeNum k, Config.freeNum (k + 1), Config.freeNum (k + 2), Config.freeNum (k + 3),
    Config.freeNum (k + 4)⟩

/-- The coefficients a read of `HOST.fs` gives, and the counter of free values after it: `COEF(fs)`, or
unspecified values at 0 Hz (47_host_commands.md R229; log 9). -/
def rateCoef (s : State) : Coeffs NumVal × Nat :=
  if s.hostFs = 0 then (freeCoef s.free, s.free + 5) else (coefOf s.cfg s.hostFs, s.free)

/-- `RECOMPUTE`: read the rate, recompute the five coefficients (47_host_commands.md R229). -/
def recompute (s : State) : State :=
  (s.setInst (s.inst.setRate s.hostFs (rateCoef s).1)).setFree (rateCoef s).2

/-- The sample count of a length command with the new `S.fs`, and the counter after it: `ms2samp`, or an
unspecified count at 0 Hz (47_host_commands.md R230, R231; 60_exceptions.md R266; log 9). -/
def lengthCount (s : State) (v : Raw) : Int × Nat :=
  if s.inst.fs = 0 then ((Config.freeCount s.free : Int), s.free + 1)
  else (ms2samp (signed v) s.inst.fs.toNat, s.free)

/-- The instance `CONSTRUCT` makes before its latch: every register at its construct value
(70_reset_and_hazards.md R291). -/
def freshInstance (N : NumOps NumVal) (n : Raw) (fs : Rate) (coef : Coeffs NumVal) : Instance where
  run := true
  n := channelCount n
  fs := fs
  coef := coef
  chan := Vector.replicate 8 ⟨N.ofInt 0, N.ofInt 0, N.ofInt 0, N.ofInt 0⟩
  sMaster := N.ofInt 0
  fb := []
  fbW := 0
  fbDelay := 1
  la := []
  laW := 0
  laLen := 1
  env := N.ofInt 0
  gr := N.ofInt 1
  thr := N.ofInt 0
  raw := ⟨0, 0, 0, 0, 0, 0, 0, 0, Vector.replicate 8 ⟨0, 0, 0, 0, 0, 0, 0⟩⟩
  latched := ⟨0, 0, .accumulate, N.ofInt 0, .soft,
    Vector.replicate 8 ⟨0, N.ofInt 0, 0, N.ofInt 0, N.ofInt 0, 0, N.ofInt 0⟩⟩

/-- `CONSTRUCT n` on any state: a new instance, latched (47_host_commands.md R221). -/
def construct (n : Raw) (s : State) : State :=
  (s.setInst (latch s.cfg (freshInstance (arithOps s.cfg.arith) n s.hostFs (rateCoef s).1))).setFree
    (rateCoef s).2

/-- The common rule of the global `WRP` commands: store the raw value, unclamped
(47_host_commands.md R222). -/
def storeGlobal (s : State) (f : RawParams → RawParams) : State :=
  s.setInst (s.inst.setRaw (f s.inst.raw))

/-- The common rule of the per-channel `WRP` commands: first `S.run`, then the channel, then the store
(47_host_commands.md R222, 60_exceptions.md R263). A channel the instance does not have is ignored
(R266 `NoSuchChannel`; log 7). -/
def storeChannel (s : State) (c : ChField) (f : ChanRaw → ChanRaw) :
    Host.Outcome State Fault Refusal :=
  whenRunning s fun s =>
    match channelOf s.inst c with
    | some k => storeGlobal s fun p => { p with chan := p.chan.set k (f p.chan[k]) }
    | none => s

/-- Hardware reset: `S.run <- 0`; everything else in the instance is unspecified after it
(70_reset_and_hazards.md R290; log 11). What belongs to the host stays. -/
def hardwareReset (s : State) : State :=
  let i := Config.afterRst s.free
  (s.setInst (((i.setFb (memOfWrites i.fb)).setLa (memOfWrites i.la)).setRun false)).setFree (s.free + 1)

/-- The host drives the sample-rate port (30_encoding.md R90). -/
def driveRate (s : State) (f : Rate) : State := s.setHostFs f

/-- The host writes a bus lane (20_memory.md R67); a lane that does not exist faults (R72; log 16). -/
def driveLane (s : State) (i : Nat) (v : NumVal) : Host.Outcome State Fault Refusal :=
  if busValid s.cfg i then .next (s.setBus (memWrite s.bus i v)) else .fault (.noSuchLane i)

/-- The required ranges of the three open steps, `0 < cRl <= cA <= 1` and `0 < cG <= 1`
(10_state.md R36). -/
def stepsInRange (N : NumOps NumVal) (k : Coeffs NumVal) : Bool :=
  (N.lt (N.ofInt 0) k.cRl && N.le k.cRl k.cA && N.le k.cA (N.ofInt 1)) &&
  (N.lt (N.ofInt 0) k.cG && N.le k.cG (N.ofInt 1))

/-- The required ranges of the five coefficients (10_state.md R36). -/
def coefInRange (N : NumOps NumVal) (k : Coeffs NumVal) : Bool :=
  N.le (N.ofInt 0) k.cR && N.lt k.cR (N.ofInt 1) &&
  (N.lt (N.ofInt 0) k.cS && N.le k.cS (N.ofInt 1)) && stepsInRange N k

/-- A well-formed configuration (00_scope.md R11): the sizes, the number of lanes, `0 < VMIN <= VMAX`,
and `COEF` in its range. A listed rate is tested whole. At a rate not listed the open steps are in
range by `attackRelease` and `gainStep` as soon as `0 < 1 <= 1` in the order of `NUM`; `cR` and `cS`
follow their formula, and leave the range only at a `BadSampleRate` of R266 (log 10). -/
def cfgWf (C : Cfg) : Bool :=
  let N := arithOps C.arith
  decide (2 ≤ C.fbBufSize) && decide (1 ≤ C.laBufSize) && decide (1 ≤ C.nb) && decide (C.nb ≤ 32767) &&
  (N.lt (N.ofInt 0) C.vMin && N.le C.vMin C.vMax) &&
  (N.lt (N.ofInt 0) (N.ofInt 1) && N.le (N.ofInt 1) (N.ofInt 1)) &&
  C.coefTable.all fun e => coefInRange N e.2

/-- An instance's machine right after hardware reset with a chosen configuration. An ill-formed
configuration is not buildable and is refused here, the one place a configuration enters
(00_scope.md R11, 60_exceptions.md R266 `IllFormedConfig`; log 18). -/
def State.boot (C : Cfg) : Host.Outcome State Fault Refusal :=
  if cfgWf C then .next { State.reset with cfg := C } else .refused .illFormedConfig

end Sys2Proof.Machine
end

