-- ==== Sys2Proof/Machine/Commands.lean ====
section
/-! DEFINITION. The host commands `NOP`, `CONSTRUCT` and the fifteen `WRP` (47_host_commands.md). -/

namespace Sys2Proof.Machine

/-- `NOP` (R220): nothing, whatever `S.run` is. -/
def execNop (s : State) : Host.Outcome State Fault Refusal := .next s

/-- `CONSTRUCT n` (R221): legal in any state. -/
def execConstruct (n : Raw) (s : State) : Host.Outcome State Fault Refusal := .next (construct n s)

/-- `WRP.OUT_L v` (R223). -/
def execWrpOutL (v : Raw) (s : State) : Host.Outcome State Fault Refusal :=
  whenRunning s fun s => storeGlobal s fun p => { p with outL := v }

/-- `WRP.OUT_R v` (R224). -/
def execWrpOutR (v : Raw) (s : State) : Host.Outcome State Fault Refusal :=
  whenRunning s fun s => storeGlobal s fun p => { p with outR := v }

/-- `WRP.OUT_MODE v` (R225). -/
def execWrpOutMode (v : Raw) (s : State) : Host.Outcome State Fault Refusal :=
  whenRunning s fun s => storeGlobal s fun p => { p with outMode := v }

/-- `WRP.MASTER v` (R226). -/
def execWrpMaster (v : Raw) (s : State) : Host.Outcome State Fault Refusal :=
  whenRunning s fun s => storeGlobal s fun p => { p with master := v }

/-- `WRP.SAT v` (R227). -/
def execWrpSat (v : Raw) (s : State) : Host.Outcome State Fault Refusal :=
  whenRunning s fun s => storeGlobal s fun p => { p with sat := v }

/-- `WRP.SQUASH v` (R228). -/
def execWrpSquash (v : Raw) (s : State) : Host.Outcome State Fault Refusal :=
  whenRunning s fun s => storeGlobal s fun p => { p with squash := v }

/-- The effect of `WRP.LOOKAHEAD v` on a running instance, at once and not at `BLKSTART` (R230). -/
def setLookahead (v : Raw) (s : State) : State :=
  let s := recompute (storeGlobal s fun p => { p with lookahead := v })
  (s.setInst (s.inst.setLaLen (clampLookahead s.cfg (lengthCount s v).1))).setFree (lengthCount s v).2

/-- `WRP.LOOKAHEAD v` (R230). -/
def execWrpLookahead (v : Raw) (s : State) : Host.Outcome State Fault Refusal :=
  whenRunning s (setLookahead v)

/-- The effect of `WRP.FBDELAY v` on a running instance, at once and for all channels (R231). -/
def setFeedbackDelay (v : Raw) (s : State) : State :=
  let s := recompute (storeGlobal s fun p => { p with fbDelay := v })
  (s.setInst (s.inst.setFbDelay (clampFbDelay s.cfg (lengthCount s v).1))).setFree (lengthCount s v).2

/-- `WRP.FBDELAY v` (R231). -/
def execWrpFbDelay (v : Raw) (s : State) : Host.Outcome State Fault Refusal :=
  whenRunning s (setFeedbackDelay v)

/-- `WRP.IN_BUS c, v` (R232). -/
def execWrpInBus (c : ChField) (v : Raw) (s : State) : Host.Outcome State Fault Refusal :=
  storeChannel s c fun p => { p with inBus := v }

/-- `WRP.FB c, v` (R233). -/
def execWrpFb (c : ChField) (v : Raw) (s : State) : Host.Outcome State Fault Refusal :=
  storeChannel s c fun p => { p with fb := v }

/-- `WRP.FBCV_BUS c, v` (R234). -/
def execWrpFbCvBus (c : ChField) (v : Raw) (s : State) : Host.Outcome State Fault Refusal :=
  storeChannel s c fun p => { p with fbCvBus := v }

/-- `WRP.FBCV_DEPTH c, v` (R235). -/
def execWrpFbCvDepth (c : ChField) (v : Raw) (s : State) : Host.Outcome State Fault Refusal :=
  storeChannel s c fun p => { p with fbCvDepth := v }

/-- `WRP.PAN c, v` (R236). -/
def execWrpPan (c : ChField) (v : Raw) (s : State) : Host.Outcome State Fault Refusal :=
  storeChannel s c fun p => { p with pan := v }

/-- `WRP.PANCV_BUS c, v` (R237). -/
def execWrpPanCvBus (c : ChField) (v : Raw) (s : State) : Host.Outcome State Fault Refusal :=
  storeChannel s c fun p => { p with panCvBus := v }

/-- `WRP.PANCV_DEPTH c, v` (R238). -/
def execWrpPanCvDepth (c : ChField) (v : Raw) (s : State) : Host.Outcome State Fault Refusal :=
  storeChannel s c fun p => { p with panCvDepth := v }

end Sys2Proof.Machine
end

