-- ==== Sys2Proof/Machine/Frame.lean ====
section
/-! DEFINITION. The micro-operations of a frame on the registers and rings, and the commands `FRAME`
and `BLKSTART` (46_mixengine_frame.md). A micro-operation of a channel reads the bus as the host gave it
(41_cv_modulation.md R135): the bus is an argument, and only `outWrite` changes it. -/

namespace Sys2Proof.Machine

/-- `S.sFb[c] <- SMOOTH(S.sFb[c], L.tFb[c])` (40_smoother.md R121, R122). -/
def smoothFb (N : NumOps NumVal) (c : Fin 8) (i : Instance) : Instance :=
  i.setChan c { i.chan[c] with sFb := smooth N i.coef.cS i.chan[c].sFb i.latched.chan[c].tFb }

/-- `S.sPan[c] <- SMOOTH(S.sPan[c], L.tPan[c])` (40_smoother.md R121, R122). -/
def smoothPan (N : NumOps NumVal) (c : Fin 8) (i : Instance) : Instance :=
  i.setChan c { i.chan[c] with sPan := smooth N i.coef.cS i.chan[c].sPan i.latched.chan[c].tPan }

/-- `S.sMaster <- SMOOTH(S.sMaster, L.tMaster)` (46_mixengine_frame.md R204). -/
def smoothMaster (N : NumOps NumVal) (i : Instance) : Instance :=
  i.setMaster (smooth N i.coef.cS i.sMaster i.latched.tMaster)

/-- `CVFB(c)` (41_cv_modulation.md R131, R132). -/
def cvFb (C : Cfg) (bus : Memory) (c : Fin 8) (i : Instance) : NumVal :=
  if busValid C i.latched.chan[c].fbCvBus then
    cvFbBlend (arithOps C.arith) i.chan[c].sFb i.latched.chan[c].dFb
      (memRead bus i.latched.chan[c].fbCvBus.toNat)
  else i.chan[c].sFb

/-- `CVPAN(c)` (41_cv_modulation.md R133, R134). -/
def cvPan (C : Cfg) (bus : Memory) (c : Fin 8) (i : Instance) : NumVal :=
  if busValid C i.latched.chan[c].panCvBus then
    cvPanSum (arithOps C.arith) i.chan[c].sPan i.latched.chan[c].dPan
      (memRead bus i.latched.chan[c].panCvBus.toNat)
  else i.chan[c].sPan

/-- `INPUT(c)` (46_mixengine_frame.md R202). -/
def input (C : Cfg) (bus : Memory) (c : Fin 8) (i : Instance) : NumVal :=
  if busValid C i.latched.chan[c].inBus then memRead bus i.latched.chan[c].inBus.toNat
  else (arithOps C.arith).ofInt 0

/-- `FBTAP(c)` (42_feedback_dcblock.md R141). -/
def fbTap (C : Cfg) (c : Fin 8) (i : Instance) : NumVal :=
  memRead i.fb (fbAddr i (ringRead C.fbBufSize i.fbW i.fbDelay) c)

/-- `DCBLOCK(c, tap)` (42_feedback_dcblock.md R143). -/
def dcBlock (N : NumOps NumVal) (c : Fin 8) (tap : NumVal) (i : Instance) : Instance × NumVal :=
  let y := dcOut N i.coef.cR i.chan[c].dcX1 i.chan[c].dcY1 tap
  (i.setChan c { i.chan[c] with dcX1 := tap, dcY1 := y }, y)

/-- `FBWRITE(c, s)` (42_feedback_dcblock.md R145). -/
def fbWrite (c : Fin 8) (v : NumVal) (i : Instance) : Instance :=
  i.setFb (memWrite i.fb (fbAddr i i.fbW c) v)

/-- `FBADV` (42_feedback_dcblock.md R147). -/
def fbAdv (C : Cfg) (i : Instance) : Instance := i.setFbW (ringNext C.fbBufSize i.fbW)

/-- The instance and the two sides of a signal. -/
structure Stereo where
  inst : Instance
  l : NumVal
  r : NumVal
  deriving DecidableEq, Repr

/-- `CHANNEL(c)` (46_mixengine_frame.md R201): smoothing, CV blend, feedback tap, DC block, feedback
sum, ring write, pan, in this order. -/
def channel (C : Cfg) (bus : Memory) (c : Fin 8) (i : Instance) : Stereo :=
  let N := arithOps C.arith
  let i := smoothPan N c (smoothFb N c i)
  let fbEff := cvFb C bus c i
  let panEff := cvPan C bus c i
  let x := input C bus c i
  let d := dcBlock N c (fbTap C c i) i
  let s := fbSum N x d.2 fbEff
  let g := pan N panEff
  ⟨fbWrite c s d.1, N.mul s g.1, N.mul s g.2⟩

/-- One turn of the channel loop: the channel's two sides are added to the mix (R203). -/
def mixChannel (C : Cfg) (bus : Memory) (acc : Stereo) (c : Fin 8) : Stereo :=
  let o := channel C bus c acc.inst
  ⟨o.inst, (arithOps C.arith).add acc.l o.l, (arithOps C.arith).add acc.r o.r⟩

/-- The channel loop, ascending, from accumulators of 0 (46_mixengine_frame.md R200, R203). -/
def mixChannels (C : Cfg) (bus : Memory) (i : Instance) : Stereo :=
  (channels i).foldl (mixChannel C bus)
    ⟨i, (arithOps C.arith).ofInt 0, (arithOps C.arith).ofInt 0⟩

/-- The master level: the new value multiplies both sides (46_mixengine_frame.md R204). -/
def applyMaster (C : Cfg) (a : Stereo) : Stereo :=
  let N := arithOps C.arith
  let i := smoothMaster N a.inst
  ⟨i, N.mul a.l i.sMaster, N.mul a.r i.sMaster⟩

/-- Step 1 of `LIMIT`: both sides of the write slot (45_limiter.md R181). -/
def laWrite (l r : NumVal) (i : Instance) : Instance :=
  i.setLa (memWrite (memWrite i.la (laAddr i.laW 0) l) (laAddr i.laW 1) r)

/-- Step 2 of `LIMIT`, one side of the delayed sample (45_limiter.md R182). -/
def laRead (C : Cfg) (side : Nat) (i : Instance) : NumVal :=
  memRead i.la (laAddr (ringRead C.laBufSize i.laW i.laLen) side)

/-- Step 9 of `LIMIT` (45_limiter.md R189). -/
def laAdv (C : Cfg) (i : Instance) : Instance := i.setLaW (ringNext C.laBufSize i.laW)

/-- Steps 3 to 6 of `LIMIT`: the envelope and the smoothed gain (45_limiter.md R183 to R186). -/
def follow (N : NumOps NumVal) (l r : NumVal) (i : Instance) : Instance :=
  let env := envNext N i.coef i.env (peakOf N l r)
  (i.setEnv env).setGr (gainNext N i.coef i.gr (gainTarget N env i.thr))

/-- `LIMIT(mixL, mixR)` (45_limiter.md R180): the ring is written before it is read. -/
def limit (C : Cfg) (a : Stereo) : Stereo :=
  let N := arithOps C.arith
  let i := laWrite a.l a.r a.inst
  let dL := laRead C 0 i
  let dR := laRead C 1 i
  let i := follow N a.l a.r i
  ⟨laAdv C i, limitSide N i.latched.sat i.gr i.env i.thr dL, limitSide N i.latched.sat i.gr i.env i.thr dR⟩

/-- The write of one output lane (46_mixengine_frame.md R206). -/
def laneWrite (C : Cfg) (mode : OutMode) (lane : Int) (v : NumVal) (bus : Memory) : Memory :=
  if busValid C lane then
    match mode with
    | .overwrite => memWrite bus lane.toNat v
    | .accumulate => memWrite bus lane.toNat ((arithOps C.arith).add (memRead bus lane.toNat) v)
  else bus

/-- `OUTWRITE(oL, oR)`: the left lane completely before the right (46_mixengine_frame.md R206, R207). -/
def outWrite (C : Cfg) (a : Stereo) (bus : Memory) : Memory :=
  laneWrite C a.inst.latched.mode a.inst.latched.outR a.r
    (laneWrite C a.inst.latched.mode a.inst.latched.outL a.l bus)

/-- The mix after the master level, with the feedback ring advanced: what `LIMIT` receives
(46_mixengine_frame.md R200). -/
def preLimit (C : Cfg) (bus : Memory) (i : Instance) : Stereo :=
  let a := applyMaster C (mixChannels C bus i)
  ⟨fbAdv C a.inst, a.l, a.r⟩

/-- The frame of a running instance (46_mixengine_frame.md R200). -/
def processFrame (s : State) : State :=
  let o := limit s.cfg (preLimit s.cfg s.bus s.inst)
  (s.setInst o.inst).setBus (outWrite s.cfg o s.bus)

/-- `FRAME` (46_mixengine_frame.md R200, R208). -/
def execFrame (s : State) : Host.Outcome State Fault Refusal := whenRunning s processFrame

/-- `BLKSTART` (46_mixengine_frame.md R210). -/
def execBlkstart (s : State) : Host.Outcome State Fault Refusal :=
  whenRunning s fun s => s.setInst (latch s.cfg s.inst)

end Sys2Proof.Machine
end

