-- ==== Sys2Proof/Machine/Dispatch.lean ====
section
/-! DEFINITION. The command set: one arm for each row of the opcode table. -/

namespace Sys2Proof.Machine

/-- The meaning of a command (47_host_commands.md R241). -/
def exec (i : Instr) (s : State) : Host.Outcome State Fault Refusal :=
  match i with
  | .nop => Sys2Proof.Machine.execNop s
  | .construct n => Sys2Proof.Machine.execConstruct n s
  | .wrpOutL v => Sys2Proof.Machine.execWrpOutL v s
  | .wrpOutR v => Sys2Proof.Machine.execWrpOutR v s
  | .wrpOutMode v => Sys2Proof.Machine.execWrpOutMode v s
  | .wrpMaster v => Sys2Proof.Machine.execWrpMaster v s
  | .wrpSat v => Sys2Proof.Machine.execWrpSat v s
  | .wrpSquash v => Sys2Proof.Machine.execWrpSquash v s
  | .wrpLookahead v => Sys2Proof.Machine.execWrpLookahead v s
  | .wrpFbDelay v => Sys2Proof.Machine.execWrpFbDelay v s
  | .wrpInBus c v => Sys2Proof.Machine.execWrpInBus c v s
  | .wrpFb c v => Sys2Proof.Machine.execWrpFb c v s
  | .wrpFbCvBus c v => Sys2Proof.Machine.execWrpFbCvBus c v s
  | .wrpFbCvDepth c v => Sys2Proof.Machine.execWrpFbCvDepth c v s
  | .wrpPan c v => Sys2Proof.Machine.execWrpPan c v s
  | .wrpPanCvBus c v => Sys2Proof.Machine.execWrpPanCvBus c v s
  | .wrpPanCvDepth c v => Sys2Proof.Machine.execWrpPanCvDepth c v s
  | .blkstart => Sys2Proof.Machine.execBlkstart s
  | .frame => Sys2Proof.Machine.execFrame s

end Sys2Proof.Machine
end

