-- ==== Sys2Proof/Machine/Port.lean ====
section
/-! DEFINITION. What the machine does with one move of the host. -/

namespace Sys2Proof.Machine

/-- One accepted command word: a command has its meaning; a reserved word is accepted and changes no
state (30_encoding.md R97; log 8). -/
def acceptWord (s : State) (w : Word) : Host.Outcome State Fault Refusal :=
  match decode w with
  | .command i => exec i s
  | .reserved _ => ignored s

/-- One move of the host (00_scope.md R8, 30_encoding.md R90). -/
def hostMove (m : HostMove) (s : State) : Host.Outcome State Fault Refusal :=
  match m with
  | .command w => acceptWord s w
  | .setRate f => .next (driveRate s f)
  | .setLane i v => driveLane s i v
  | .assertReset => .next (hardwareReset s)

/-- The state with a command word waiting at the head of the command port. -/
def presentWord (s : State) (w : Word) : State := s.setPort (.command w :: s.port)

end Sys2Proof.Machine
end

