-- ==== Sys2Proof/Machine/Step.lean ====
section
/-! DEFINITION. The step of the machine: it takes the host's oldest waiting move. -/

namespace Sys2Proof.Machine

/-- One step. With no move waiting CORE holds its state (60_exceptions.md R274; log 14). -/
def step (s : State) : Host.Outcome State Fault Refusal :=
  match s.port with
  | [] => .next s
  | m :: rest => hostMove m (s.setPort rest)

/-- `s` with the instruction whose bits are `w` presented next on the command port: nothing else that a
step needs, since the machine has no program counter (10_state.md R35; log 14). -/
def State.withFetchWord (s : State) (nbits w : Nat) : State := presentWord s (tableWord nbits w)

end Sys2Proof.Machine
end

