-- ==== Sys2Proof/Certificates/Slice0/Reals.lean ====
section
/-! DEFINITION. The real numbers as a `NUM`, for statements: the reference instantiation of
00_scope.md R14. The machine computes on expressions instead (Machine/Arith.lean). -/

namespace Sys2Proof.Machine

/-- Exact real arithmetic (00_scope.md R14). -/
noncomputable def realOps : NumOps ℝ where
  ofInt z := (z : ℝ)
  lit q := (q : ℝ)
  halfPi := Real.pi / 2
  twoPi := 2 * Real.pi
  add a b := a + b
  sub a b := a - b
  mul a b := a * b
  div a b := a / b
  abs a := |a|
  max a b := max a b
  lt a b := decide (a < b)
  le a b := decide (a ≤ b)
  eq a b := decide (a = b)
  tanh a := Real.tanh a
  cos a := Real.cos a
  sin a := Real.sin a
  exp a := Real.exp a

/-- The state `(x1, y1)` of a DC blocker before its `n`-th tap, from the zero state
(42_feedback_dcblock.md R143). -/
noncomputable def dcState (r : ℝ) (x : ℕ → ℝ) : ℕ → ℝ × ℝ
  | 0 => (0, 0)
  | n + 1 => (x n, dcOut realOps r (dcState r x n).1 (dcState r x n).2 (x n))

/-- The `n`-th output of a DC blocker from the zero state. -/
noncomputable def dcOutput (r : ℝ) (x : ℕ → ℝ) (n : ℕ) : ℝ := (dcState r x (n + 1)).2

end Sys2Proof.Machine
end

