-- ==== Sys2Proof/Certificates/Slice0/Rules.lean ====
section
/-! DEFINITION. The formulas of a frame written out a second time, from the rules, for statements: one
expression for each quantity, from the state before the frame and the bus as the host gave it. They use
the fields of State, `memRead` and the operations of `NUM`, and no meaning of the machine. -/

namespace Sys2Proof.Machine.Rule

/-- `busValid` (20_memory.md R68). -/
abbrev valid (C : Cfg) (lane : Int) : Prop := 1 ≤ lane ∧ lane ≤ C.nb

/-- The voltage of a lane. -/
def volts (bus : Memory) (lane : Int) : NumVal := memRead bus lane.toNat

/-- `clamp` (00_scope.md R14). -/
def clamp (N : NumOps NumVal) (v lo hi : NumVal) : NumVal :=
  if N.lt v lo = true then lo else if N.lt hi v = true then hi else v

/-- A smoother after the frame: `prev + cS · (target - prev)` (40_smoother.md R121). -/
def smoothed (N : NumOps NumVal) (i : Instance) (prev target : NumVal) : NumVal :=
  N.add prev (N.mul i.coef.cS (N.sub target prev))

def sFb (N : NumOps NumVal) (i : Instance) (c : Fin 8) : NumVal :=
  smoothed N i i.chan[c].sFb i.latched.chan[c].tFb

def sPan (N : NumOps NumVal) (i : Instance) (c : Fin 8) : NumVal :=
  smoothed N i i.chan[c].sPan i.latched.chan[c].tPan

/-- The feedback amount: on a valid CV lane `sFb · (1 - d) + clamp(v/5 · 0.5 + 0.5, 0, 1) · d`
(41_cv_modulation.md R131). -/
def fbEff (C : Cfg) (N : NumOps NumVal) (bus : Memory) (i : Instance) (c : Fin 8) : NumVal :=
  let L := i.latched.chan[c]
  let cv := N.div (volts bus L.fbCvBus) (N.ofInt 5)
  if valid C L.fbCvBus then
    N.add (N.mul (sFb N i c) (N.sub (N.ofInt 1) L.dFb))
      (N.mul (clamp N (N.add (N.mul cv (N.lit (1 / 2))) (N.lit (1 / 2))) (N.ofInt 0) (N.ofInt 1)) L.dFb)
  else sFb N i c

/-- The pan: on a valid CV lane `clamp(sPan + v/5 · (100 · d), -100, 100)` (41_cv_modulation.md R133). -/
def panEff (C : Cfg) (N : NumOps NumVal) (bus : Memory) (i : Instance) (c : Fin 8) : NumVal :=
  let L := i.latched.chan[c]
  let cv := N.div (volts bus L.panCvBus) (N.ofInt 5)
  if valid C L.panCvBus then
    clamp N (N.add (sPan N i c) (N.mul cv (N.mul (N.ofInt 100) L.dPan))) (N.ofInt (-100)) (N.ofInt 100)
  else sPan N i c

/-- The live input (46_mixengine_frame.md R202). -/
def input (C : Cfg) (N : NumOps NumVal) (bus : Memory) (i : Instance) (c : Fin 8) : NumVal :=
  if valid C i.latched.chan[c].inBus then volts bus i.latched.chan[c].inBus else N.ofInt 0

/-- The tap (20_memory.md R61, R62; 42_feedback_dcblock.md R141). -/
def tap (C : Cfg) (i : Instance) (c : Fin 8) : NumVal :=
  memRead i.fb ((i.fbW + C.fbBufSize - i.fbDelay) % C.fbBufSize * i.n + c)

/-- The filtered tap `(tap - x1) + cR · y1` (42_feedback_dcblock.md R143). -/
def filtered (C : Cfg) (N : NumOps NumVal) (i : Instance) (c : Fin 8) : NumVal :=
  N.add (N.sub (tap C i c) i.chan[c].dcX1) (N.mul i.coef.cR i.chan[c].dcY1)

/-- The channel's signal `x + y · fbEff` (42_feedback_dcblock.md R144). -/
def signal (C : Cfg) (N : NumOps NumVal) (bus : Memory) (i : Instance) (c : Fin 8) : NumVal :=
  N.add (input C N bus i c) (N.mul (filtered C N i c) (fbEff C N bus i c))

/-- The angle `(panEff + 100)/200 · HALF_PI` (43_panner.md R160). -/
def angle (C : Cfg) (N : NumOps NumVal) (bus : Memory) (i : Instance) (c : Fin 8) : NumVal :=
  N.mul (N.div (N.add (panEff C N bus i c) (N.ofInt 100)) (N.ofInt 200)) N.halfPi

/-- What a channel adds to the left and to the right: `s · cos(angle)`, `s · sin(angle)`
(46_mixengine_frame.md R201; 43_panner.md R160). -/
def left (C : Cfg) (N : NumOps NumVal) (bus : Memory) (i : Instance) (c : Fin 8) : NumVal :=
  N.mul (signal C N bus i c) (N.cos (angle C N bus i c))

def right (C : Cfg) (N : NumOps NumVal) (bus : Memory) (i : Instance) (c : Fin 8) : NumVal :=
  N.mul (signal C N bus i c) (N.sin (angle C N bus i c))

/-- The saturation curve of a normalised sample (44_saturation.md R171 to R173). -/
def curve (N : NumOps NumVal) (sel : SatCurve) (x : NumVal) : NumVal :=
  match sel with
  | .soft => N.tanh x
  | .tube =>
    if N.le (N.ofInt 0) x = true then N.mul (N.tanh (N.mul (N.lit (4 / 5)) x)) (N.lit (11 / 10))
    else N.mul (N.tanh (N.mul (N.lit (6 / 5)) x)) (N.lit (9 / 10))
  | .hard =>
    let a := N.abs x
    let m := if N.le a (N.ofInt 1) = true then
        N.add (N.lit (4 / 5)) (N.mul (N.sub a (N.lit (4 / 5))) (N.lit (1 / 2)))
      else N.ofInt 1
    if N.le a (N.lit (4 / 5)) = true then x
    else if N.lt x (N.ofInt 0) = true then N.sub (N.ofInt 0) m else m

/-- One side of the limiter's output: the delayed sample times the gain; if the gain is below 1 or the
envelope above the threshold, normalised by the threshold, curved, and rescaled
(45_limiter.md R187, R188; 44_saturation.md R170). -/
def output (N : NumOps NumVal) (sel : SatCurve) (gr env thr delayed : NumVal) : NumVal :=
  let o := N.mul delayed gr
  if N.lt gr (N.ofInt 1) = true ∨ N.lt thr env = true then N.mul (curve N sel (N.div o thr)) thr else o

end Sys2Proof.Machine.Rule
end

