-- ==== Sys2Proof/Safety.lean ====
section
/-! DEFINITION. What claims about SEYMOUR-CORE speak of: the situations the spec's rules leave without
a meaning, the state invariant of 10_state.md R58, and runs of frames. -/

namespace Sys2Proof.Machine

/-- The situations of 60_exceptions.md R266 that a command can meet, by the spec's names. The spec has a
model refuse there; this one does what the hardware does (log 7, log 8, log 9, log 10). -/
inductive Outside where
  /-- `WRP.*`, `BLKSTART` or `FRAME` while `S.run = 0`: ignored. -/
  | notConstructed
  /-- `WRP` to a channel the instance does not have: ignored. -/
  | noSuchChannel
  /-- a sample rate of 0, or one at which `COEF` leaves its range. -/
  | badSampleRate
  deriving DecidableEq, Repr

/-- The rate `HOST.fs` drives is outside the rules (60_exceptions.md R266). -/
def rateOutside (s : State) : Option Outside :=
  if s.hostFs = 0 ∨ coefInRange (arithOps s.cfg.arith) (coefOf s.cfg s.hostFs) = false then
    some .badSampleRate
  else none

/-- A per-channel command is outside the rules (47_host_commands.md R222). -/
def channelOutside (s : State) (c : ChField) : Option Outside :=
  if s.inst.run then (if (channelOf s.inst c).isSome then none else some .noSuchChannel)
  else some .notConstructed

/-- The situation a command meets in a state, if any, in the order of 60_exceptions.md R263. -/
def outsideRules (i : Instr) (s : State) : Option Outside :=
  match i with
  | .nop => none
  | .construct _ => rateOutside s
  | .wrpLookahead _ | .wrpFbDelay _ => if s.inst.run then rateOutside s else some .notConstructed
  | .wrpInBus c _ | .wrpFb c _ | .wrpFbCvBus c _ | .wrpFbCvDepth c _ => channelOutside s c
  | .wrpPan c _ | .wrpPanCvBus c _ | .wrpPanCvDepth c _ => channelOutside s c
  | .wrpOutL _ | .wrpOutR _ | .wrpOutMode _ | .wrpMaster _ | .wrpSat _ | .wrpSquash _ | .blkstart
  | .frame => if s.inst.run then none else some .notConstructed

/-- `lo <= v <= hi` in the order of a `NUM`. -/
def between (N : NumOps NumVal) (lo v hi : NumVal) : Prop := N.le lo v = true ∧ N.le v hi = true

/-- The integer registers of an instance that runs (10_state.md R58), and where its rings' words lie
(20_memory.md R61, R64, R70). This asks nothing of the arithmetic. -/
structure Ranges (C : Cfg) (i : Instance) : Prop where
  n_pos : 1 ≤ i.n
  n_le : i.n ≤ 8
  fbW_lt : i.fbW < C.fbBufSize
  fbDelay_pos : 1 ≤ i.fbDelay
  fbDelay_lt : i.fbDelay < C.fbBufSize
  laW_lt : i.laW < C.laBufSize
  laLen_pos : 1 ≤ i.laLen
  laLen_le : i.laLen ≤ C.laBufSize
  fb_addr : ∀ p ∈ i.fb, p.1 < C.fbBufSize * i.n
  la_addr : ∀ p ∈ i.la, p.1 < 2 * C.laBufSize

/-- What holds of an instance that runs (10_state.md R58). -/
structure Running (C : Cfg) (i : Instance) : Prop extends Ranges C i where
  thr_between : between (arithOps C.arith) C.vMin i.thr C.vMax
  tMaster_unit : between (arithOps C.arith) ((arithOps C.arith).ofInt 0) i.latched.tMaster
    ((arithOps C.arith).ofInt 1)
  tFb_unit : ∀ c : Fin 8, between (arithOps C.arith) ((arithOps C.arith).ofInt 0)
    i.latched.chan[c].tFb ((arithOps C.arith).ofInt 1)
  dFb_unit : ∀ c : Fin 8, between (arithOps C.arith) ((arithOps C.arith).ofInt 0)
    i.latched.chan[c].dFb ((arithOps C.arith).ofInt 1)
  dPan_unit : ∀ c : Fin 8, between (arithOps C.arith) ((arithOps C.arith).ofInt 0)
    i.latched.chan[c].dPan ((arithOps C.arith).ofInt 1)
  tPan_range : ∀ c : Fin 8, between (arithOps C.arith) ((arithOps C.arith).ofInt (-100))
    i.latched.chan[c].tPan ((arithOps C.arith).ofInt 100)

/-- The memories are in canonical form and the bus lists lanes `1..NB` only; this asks nothing of the
arithmetic. -/
structure MemoriesOk (s : State) : Prop where
  bus_wf : Memory.wf s.bus = true
  fb_wf : Memory.wf s.inst.fb = true
  la_wf : Memory.wf s.inst.la = true
  bus_addr : ∀ p ∈ s.bus, 1 ≤ p.1 ∧ p.1 ≤ s.cfg.nb

/-- The state invariant: 10_state.md R58 while an instance runs, and canonical memories always. -/
structure Inv (s : State) : Prop where
  memories : MemoriesOk s
  running : s.inst.run = true → Running s.cfg s.inst

/-- One frame for each bus frame of the list: the host fills `BUS`, then issues `FRAME`
(20_memory.md R67). `none` if one of them does not answer a next state. -/
def frames : List Memory → State → Option State
  | [], s => some s
  | b :: rest, s =>
    match exec .frame (s.setBus b) with
    | .next t => frames rest t
    | .fault _ => none
    | .refused _ => none

end Sys2Proof.Machine
end

