-- ==== Sys2Proof/Certificates/Slice0/Obligations.lean ====
section
/-! DEFINITION. What is claimed of the model, one definition for each statement. `s` is any state,
reached or not; where a statement needs more it says so in a premise. -/

open Sys2Proof Sys2Proof.Machine

/-! ### Commands and their frames -/

/-- R220: `NOP` is the all-zero word and changes nothing, whatever `S.run` is. -/
def Obligations.NopHasNoEffect : Prop :=
  decode 0x00000000 = .command .nop ∧ ∀ s : State, exec .nop s = .next s

/-- R221, R291, R57: `CONSTRUCT` at any rate but 0 leaves every register at its construct value and
touches nothing the host owns. (`S.thr` and the latched targets are given as the latch of the all-zero
parameters; `FreshThresholdIsMaximum` says what they are in exact arithmetic.) -/
def Obligations.ConstructGivesConstructValues : Prop :=
  ∀ (n : Raw) (s : State), s.hostFs ≠ 0 →
    let N := arithOps s.cfg.arith
    ∃ t, exec (.construct n) s = .next t ∧
      t.inst.run = true ∧ (t.inst.n : Int) = clampi (signed n) 1 8 ∧ t.inst.fs = s.hostFs ∧
      t.inst.coef = coefOf s.cfg s.hostFs ∧
      (∀ c : Fin 8, t.inst.chan[c] = ⟨N.ofInt 0, N.ofInt 0, N.ofInt 0, N.ofInt 0⟩) ∧
      t.inst.sMaster = N.ofInt 0 ∧
      (∀ a, memRead t.inst.fb a = N.ofInt 0) ∧ t.inst.fbW = 0 ∧ t.inst.fbDelay = 1 ∧
      (∀ a, memRead t.inst.la a = N.ofInt 0) ∧ t.inst.laW = 0 ∧ t.inst.laLen = 1 ∧
      t.inst.env = N.ofInt 0 ∧ t.inst.gr = N.ofInt 1 ∧
      t.inst.raw = ⟨0, 0, 0, 0, 0, 0, 0, 0, Vector.replicate 8 ⟨0, 0, 0, 0, 0, 0, 0⟩⟩ ∧
      t.inst.latched = latchOf N t.inst.raw ∧ t.inst.thr = thresh N s.cfg.vMax s.cfg.vMin 0 ∧
      t.bus = s.bus ∧ t.hostFs = s.hostFs ∧ t.cfg = s.cfg ∧ t.port = s.port ∧ t.free = s.free

/-- R221 (D27) and log 9: `CONSTRUCT` replaces the instance entirely, at every rate, 0 included: nothing
of the old one reaches the new one. -/
def Obligations.ConstructDiscardsOldInstance : Prop :=
  ∀ (n : Raw) (s : State) (old : Instance),
    ∃ t, exec (.construct n) s = .next t ∧ exec (.construct n) (s.setInst old) = .next t ∧
      t.inst.run = true ∧ t.inst.fs = s.hostFs ∧ t.inst.fbDelay = 1 ∧ t.inst.laLen = 1

/-- R34, R53, R291: in exact arithmetic a fresh instance has the threshold `VMAX`, targets and depths 0,
buses 0, accumulate mode and the Soft curve. That this holds at `HOST.fs = 0` too, where the spec has a
model refuse, is the model's choice (log 9). -/
def Obligations.FreshThresholdIsMaximum : Prop :=
  ∀ (n : Raw) (s : State), s.cfg.arith = .exactReals → cfgWf s.cfg = true →
    ∃ t, exec (.construct n) s = .next t ∧ t.inst.thr = s.cfg.vMax ∧
      t.inst.latched.outL = 0 ∧ t.inst.latched.outR = 0 ∧ t.inst.latched.mode = .accumulate ∧
      t.inst.latched.sat = .soft ∧ t.inst.latched.tMaster = .rat 0 ∧
      ∀ c : Fin 8, t.inst.latched.chan[c] = ⟨0, .rat 0, 0, .rat 0, .rat 0, 0, .rat 0⟩

/-- R221's corner case: in exact arithmetic a `FRAME` right after `CONSTRUCT` writes no lane and leaves
every register at its construct value but for the two write indices, which advance. That it covers a
`CONSTRUCT` at `HOST.fs = 0` is the model's choice (log 9). -/
def Obligations.FreshFrameOnlyAdvancesRings : Prop :=
  ∀ (n : Raw) (s t : State), s.cfg.arith = .exactReals → cfgWf s.cfg = true →
    exactLt s.cfg.vMax (.rat 0) = false → exec (.construct n) s = .next t →
    exec .frame t = .next (t.setInst ((t.inst.setFbW (1 % s.cfg.fbBufSize)).setLaW (1 % s.cfg.laBufSize)))

/-- R222 to R228: on a running instance each global parameter write other than the two lengths stores
its raw value, unclamped, in its own register, and changes nothing else. -/
def Obligations.GlobalWritesStoreRawValue : Prop :=
  ∀ (v : Raw) (s : State), s.inst.run = true →
    let put := fun p : RawParams => Host.Outcome.next (φ := Fault) (ρ := Refusal) (s.setInst (s.inst.setRaw p))
    exec (.wrpOutL v) s = put { s.inst.raw with outL := v } ∧
    exec (.wrpOutR v) s = put { s.inst.raw with outR := v } ∧
    exec (.wrpOutMode v) s = put { s.inst.raw with outMode := v } ∧
    exec (.wrpMaster v) s = put { s.inst.raw with master := v } ∧
    exec (.wrpSat v) s = put { s.inst.raw with sat := v } ∧
    exec (.wrpSquash v) s = put { s.inst.raw with squash := v }

/-- R222, R232 to R238: on a running instance a write to a channel it has stores its raw value in that
channel's register; every other parameter of that channel, every other channel and everything else is
unchanged. -/
def Obligations.ChannelWritesStoreRawValue : Prop :=
  ∀ (c : ChField) (k : Fin 8) (v : Raw) (s : State), s.inst.run = true → c.toNat = k → k < s.inst.n →
    let put := fun r : ChanRaw => Host.Outcome.next (φ := Fault) (ρ := Refusal)
      (s.setInst (s.inst.setRaw { s.inst.raw with chan := s.inst.raw.chan.set k r }))
    exec (.wrpInBus c v) s = put { s.inst.raw.chan[k] with inBus := v } ∧
    exec (.wrpFb c v) s = put { s.inst.raw.chan[k] with fb := v } ∧
    exec (.wrpFbCvBus c v) s = put { s.inst.raw.chan[k] with fbCvBus := v } ∧
    exec (.wrpFbCvDepth c v) s = put { s.inst.raw.chan[k] with fbCvDepth := v } ∧
    exec (.wrpPan c v) s = put { s.inst.raw.chan[k] with pan := v } ∧
    exec (.wrpPanCvBus c v) s = put { s.inst.raw.chan[k] with panCvBus := v } ∧
    exec (.wrpPanCvDepth c v) s = put { s.inst.raw.chan[k] with panCvDepth := v }

/-- R230, R229, R191: `WRP.LOOKAHEAD` at a rate other than 0 stores the raw value, reads the rate,
recomputes the coefficients and sets `S.laLen`, all at once; nothing else changes, the feedback delay,
the rings and the latched parameters included. -/
def Obligations.LookaheadWriteActsAtOnce : Prop :=
  ∀ (v : Raw) (s : State), s.inst.run = true → s.hostFs ≠ 0 →
    exec (.wrpLookahead v) s = .next (s.setInst { s.inst with
      raw := { s.inst.raw with lookahead := v }
      fs := s.hostFs
      coef := coefOf s.cfg s.hostFs
      laLen := (clampi (ms2samp (signed v) s.hostFs.toNat) 1 s.cfg.laBufSize).toNat })

/-- R231, R229, R146: `WRP.FBDELAY` at a rate other than 0, likewise for `S.fbDelay`. -/
def Obligations.FeedbackDelayWriteActsAtOnce : Prop :=
  ∀ (v : Raw) (s : State), s.inst.run = true → s.hostFs ≠ 0 →
    exec (.wrpFbDelay v) s = .next (s.setInst { s.inst with
      raw := { s.inst.raw with fbDelay := v }
      fs := s.hostFs
      coef := coefOf s.cfg s.hostFs
      fbDelay := (clampi (ms2samp (signed v) s.hostFs.toNat) 1 ((s.cfg.fbBufSize : Int) - 1)).toNat })

/-- R191, R146, R58 and log 9: whatever the rate, 0 included, the two length commands complete, keep
their own length in its range, and leave the other length, both rings and their write indices alone. -/
def Obligations.LengthCommandsKeepTheirRange : Prop :=
  ∀ (v : Raw) (s : State), s.inst.run = true → 2 ≤ s.cfg.fbBufSize → 1 ≤ s.cfg.laBufSize →
    (∃ t, exec (.wrpLookahead v) s = .next t ∧ 1 ≤ t.inst.laLen ∧ t.inst.laLen ≤ s.cfg.laBufSize ∧
      t.inst.fs = s.hostFs ∧ t.inst.raw.lookahead = v ∧ t.inst.fbDelay = s.inst.fbDelay ∧
      t.inst.fb = s.inst.fb ∧ t.inst.fbW = s.inst.fbW ∧ t.inst.la = s.inst.la ∧
      t.inst.laW = s.inst.laW ∧ t.inst.latched = s.inst.latched ∧ t.bus = s.bus) ∧
    (∃ t, exec (.wrpFbDelay v) s = .next t ∧ 1 ≤ t.inst.fbDelay ∧
      t.inst.fbDelay ≤ s.cfg.fbBufSize - 1 ∧
      t.inst.fs = s.hostFs ∧ t.inst.raw.fbDelay = v ∧ t.inst.laLen = s.inst.laLen ∧
      t.inst.fb = s.inst.fb ∧ t.inst.fbW = s.inst.fbW ∧ t.inst.la = s.inst.la ∧
      t.inst.laW = s.inst.laW ∧ t.inst.latched = s.inst.latched ∧ t.bus = s.bus)

/-- R16: tenths of a millisecond to samples, rounded down. -/
def Obligations.MillisecondsRoundDown : Prop :=
  (∀ (raw : Int) (fs : Nat), (raw ≤ 0 → ms2samp raw fs = 0) ∧
    (0 < raw → ms2samp raw fs * 10000 ≤ raw * fs ∧ raw * fs < (ms2samp raw fs + 1) * 10000)) ∧
  ms2samp 5 48000 = 24 ∧ ms2samp 200 96000 = 1920 ∧ ms2samp 7 44100 = 30

/-- R210, R38 to R53: `BLKSTART` on a running instance latches every raw parameter but the two lengths,
sets the threshold, and changes nothing else. -/
def Obligations.BlockStartLatchesParameters : Prop :=
  ∀ s : State, s.inst.run = true →
    let N := arithOps s.cfg.arith
    let P := s.inst.raw
    let unit := fun r : Raw => N.div (N.ofInt (clampi r.toInt 0 100)) (N.ofInt 100)
    ∃ l : Latched, exec .blkstart s =
        .next (s.setInst (s.inst.setLatch l (thresh N s.cfg.vMax s.cfg.vMin P.squash))) ∧
      l.outL = P.outL.toInt ∧ l.outR = P.outR.toInt ∧
      l.mode = (if P.outMode = 1 then .overwrite else .accumulate) ∧
      l.tMaster = unit P.master ∧
      l.sat = (if P.sat = 1 then .tube else if P.sat = 2 then .hard else .soft) ∧
      ∀ c : Fin 8, l.chan[c] = {
        inBus := P.chan[c].inBus.toInt
        tFb := unit P.chan[c].fb
        fbCvBus := P.chan[c].fbCvBus.toInt
        dFb := unit P.chan[c].fbCvDepth
        tPan := N.ofInt (clampi P.chan[c].pan.toInt (-100) 100)
        panCvBus := P.chan[c].panCvBus.toInt
        dPan := unit P.chan[c].panCvDepth }

/-- R210: two `BLKSTART`s in a row leave the state of one. -/
def Obligations.BlockStartIsIdempotent : Prop :=
  ∀ s : State, s.inst.run = true → ∃ t, exec .blkstart s = .next t ∧ exec .blkstart t = .next t

/-! ### Situations outside the rules -/

/-- R266, R208 and log 7 (the model's choice to do what the hardware does): with `S.run = 0` every
command but `CONSTRUCT` changes nothing. -/
def Obligations.UnconstructedIgnoresCommands : Prop :=
  ∀ (i : Instr) (s : State), s.inst.run = false → (∀ n, i ≠ .construct n) → exec i s = .next s

/-- R222, R266 and log 7: a write to a channel the instance does not have changes nothing. -/
def Obligations.MissingChannelIsIgnored : Prop :=
  ∀ (c : ChField) (v : Raw) (s : State), s.inst.n ≤ c.toNat →
    exec (.wrpInBus c v) s = .next s ∧ exec (.wrpFb c v) s = .next s ∧
    exec (.wrpFbCvBus c v) s = .next s ∧ exec (.wrpFbCvDepth c v) s = .next s ∧
    exec (.wrpPan c v) s = .next s ∧ exec (.wrpPanCvBus c v) s = .next s ∧
    exec (.wrpPanCvDepth c v) s = .next s

/-- R260, R264, R266, R267: every command answers a next state in every state, and leaves the
configuration, the rate port and the host's coming moves alone. -/
def Obligations.CommandsAlwaysComplete : Prop :=
  ∀ (i : Instr) (s : State), ∃ t, exec i s = .next t ∧ t.cfg = s.cfg ∧ t.hostFs = s.hostFs ∧
    t.port = s.port

/-- R72 and log 16: a step answers a next state unless the host's move writes a lane that does not
exist; then it faults with that lane's name. That every other step completes is the model's choice where
the spec has a model refuse: a reserved word (log 8), no instance or no such channel (log 7), a rate
of 0 (log 9). -/
def Obligations.StepStopsOnlyAtMissingLane : Prop :=
  ∀ s : State, (∃ t, step s = .next t) ∨
    ∃ i v rest, s.port = .setLane i v :: rest ∧ (i = 0 ∨ s.cfg.nb < i) ∧ step s = .fault (.noSuchLane i)

/-- R60, R22, R21, R53, R24 to R27, R32, R33: which commands may change which state. Only `FRAME`
writes `BUS`; only `FRAME` and `CONSTRUCT` write the rings, their indices and the smoothed and filtered
registers; only `BLKSTART` and `CONSTRUCT` write the latched parameters and the threshold; only
`CONSTRUCT` writes `S.N` and `S.run`; only `CONSTRUCT` and the two lengths write `S.fs` and the
coefficients. -/
def Obligations.WritersOfEachRegister : Prop :=
  ∀ (i : Instr) (s t : State), exec i s = .next t →
    (i ≠ .frame → t.bus = s.bus) ∧
    (i ≠ .frame → (∀ n, i ≠ .construct n) →
      t.inst.fb = s.inst.fb ∧ t.inst.fbW = s.inst.fbW ∧ t.inst.la = s.inst.la ∧
      t.inst.laW = s.inst.laW ∧ t.inst.chan = s.inst.chan ∧ t.inst.sMaster = s.inst.sMaster ∧
      t.inst.env = s.inst.env ∧ t.inst.gr = s.inst.gr) ∧
    (i ≠ .blkstart → (∀ n, i ≠ .construct n) →
      t.inst.latched = s.inst.latched ∧ t.inst.thr = s.inst.thr) ∧
    ((∀ n, i ≠ .construct n) → t.inst.n = s.inst.n ∧ t.inst.run = s.inst.run) ∧
    ((∀ n, i ≠ .construct n) → (∀ v, i ≠ .wrpLookahead v) → (∀ v, i ≠ .wrpFbDelay v) →
      t.inst.fs = s.inst.fs ∧ t.inst.coef = s.inst.coef ∧ t.free = s.free)

/-! ### Decoding and stepping -/

/-- R99: words written out from the tables of 30_encoding.md decode to the commands they stand for. -/
def Obligations.WordsOfTheTablesDecode : Prop :=
  decode 0x10000002 = .command (.construct 2) ∧ decode 0x1000FFFF = .command (.construct (-1)) ∧
  decode 0x20030064 = .command (.wrpMaster 100) ∧
  decode 0x2114FF9C = .command (.wrpPan 1 (-100)) ∧
  decode 0x27160032 = .command (.wrpPanCvDepth 7 50) ∧
  decode 0x20068000 = .command (.wrpLookahead (-32768)) ∧
  decode 0x30000000 = .command .blkstart ∧ decode 0x40000000 = .command .frame

/-- R91 to R96, R99: decoding the word of a well-formed command gives the command back. -/
def Obligations.WellFormedCommandsDecodeBack : Prop :=
  ∀ i : Instr, wellFormed i = true → decode (encode i) = .command i

/-- R99: a word that decodes to a command is the word of that command, and the command is well formed:
each command has one word. -/
def Obligations.DecodedWordIsTheEncoding : Prop :=
  ∀ (w : Word) (i : Instr), decode w = .command i → wellFormed i = true ∧ encode i = w

/-- R97: a word is reserved exactly when one of the listed conditions holds. -/
def Obligations.ReservedWordsAreTheListed : Prop :=
  ∀ w : Word,
    let op := (w.extractLsb' 28 4).toNat
    let ch := (w.extractLsb' 24 4).toNat
    let pid := (w.extractLsb' 16 8).toNat
    let imm := (w.extractLsb' 0 16).toNat
    (∃ why, decode w = .reserved why) ↔
      5 ≤ op ∨ ((op = 0 ∨ op = 3 ∨ op = 4) ∧ (ch ≠ 0 ∨ pid ≠ 0 ∨ imm ≠ 0)) ∨
      (op = 1 ∧ (ch ≠ 0 ∨ pid ≠ 0)) ∨
      (op = 2 ∧ ¬ pid ≤ 0x07 ∧ ¬ (0x10 ≤ pid ∧ pid ≤ 0x16)) ∨
      (op = 2 ∧ pid ≤ 0x07 ∧ ch ≠ 0) ∨ (op = 2 ∧ 0x10 ≤ pid ∧ pid ≤ 0x16 ∧ 8 ≤ ch)

/-- R8, R90: a step whose host move presents the word of a command is that command's meaning, on the
state with the move taken off the port; `withFetchWord` presents such a word. -/
def Obligations.StepRunsDecodedCommand : Prop :=
  ∀ (i : Instr) (w : Word) (s : State), decode w = .command i →
    (∀ rest, s.port = .command w :: rest → step s = exec i (s.setPort rest)) ∧
    step (s.withFetchWord 32 w.toNat) = exec i s

/-- R97 and log 8, R90, R67, R274: the other steps. A reserved word changes nothing; the host drives the
rate or a lane; with no move waiting the state is held. -/
def Obligations.StepOfOtherMoves : Prop :=
  ∀ (s : State) (rest : List HostMove),
    (s.port = [] → step s = .next s) ∧
    (∀ w why, decode w = .reserved why → s.port = .command w :: rest →
      step s = .next (s.setPort rest)) ∧
    (∀ f, s.port = .setRate f :: rest → step s = .next ((s.setPort rest).setHostFs f)) ∧
    (∀ i v, s.port = .setLane i v :: rest → 1 ≤ i → i ≤ s.cfg.nb →
      step s = .next ((s.setPort rest).setBus (memWrite s.bus i v)))

/-- R290: hardware reset clears `S.run`; the host's bus frame, its rate port and the configuration stay.
After it (`UnconstructedIgnoresCommands`) nothing but `CONSTRUCT` has an effect. -/
def Obligations.HardwareResetClearsRun : Prop :=
  ∀ (s : State) (rest : List HostMove), s.port = .assertReset :: rest →
    ∃ t, step s = .next t ∧ t.inst.run = false ∧ t.bus = s.bus ∧ t.hostFs = s.hostFs ∧
      t.cfg = s.cfg ∧ t.port = rest

/-! ### Invariants -/

/-- R58, R70: every step keeps the invariant, in exact arithmetic and a well-formed configuration. -/
def Obligations.StepKeepsStateInvariant : Prop :=
  ∀ s t : State, s.cfg.arith = .exactReals → cfgWf s.cfg = true → Inv s → step s = .next t →
    Inv t ∧ t.cfg = s.cfg

/-- 10_state.md R21, R290: the machine after reset runs no instance, its configuration is well formed
and exact, and it has the invariant. -/
def Obligations.ResetHasStateInvariant : Prop :=
  State.reset.inst.run = false ∧ State.reset.cfg.arith = .exactReals ∧
    cfgWf State.reset.cfg = true ∧ Inv State.reset

/-- R60, R67, R70, R58: in every arithmetic every step keeps the memories canonical and inside the bus's
lanes, and, with rings of the sizes R11 asks, the integer registers of a running instance in their
ranges and its ring words inside its rings. -/
def Obligations.StepKeepsMemories : Prop :=
  ∀ s t : State, MemoriesOk s → step s = .next t → MemoriesOk t ∧ t.cfg = s.cfg ∧
    (2 ≤ s.cfg.fbBufSize → 1 ≤ s.cfg.laBufSize → (s.inst.run = true → Ranges s.cfg s.inst) →
      t.inst.run = true → Ranges t.cfg t.inst)

/-! ### FRAME -/

/-- R200, R201, R203, R204, R180 to R189, R206: `FRAME` on a running instance is the dataflow of its
rules, every formula written out (Rules.lean). The mix is the ascending sum of what each channel makes of
the state BEFORE the frame (no channel sees another, R151); the new master level, the ring words, the
envelope and the gain follow from it; the output is the delayed sample under the gain and the curve; and
the bus is `OUTWRITE` of it, the left lane before the right. -/
def Obligations.FrameIsTheParallelDataflow : Prop :=
  ∀ s : State, s.inst.run = true → Memory.wf s.inst.la = true →
    let i := s.inst
    let N := arithOps s.cfg.arith
    let mix := ((List.finRange 8).take i.n).foldl
      (fun (a : NumVal × NumVal) c => (N.add a.1 (Rule.left s.cfg N s.bus i c),
        N.add a.2 (Rule.right s.cfg N s.bus i c))) (N.ofInt 0, N.ofInt 0)
    let m := N.add i.sMaster (N.mul i.coef.cS (N.sub i.latched.tMaster i.sMaster))
    let l := N.mul mix.1 m
    let r := N.mul mix.2 m
    let peak := N.max (N.abs l) (N.abs r)
    let env := N.add i.env
      (N.mul (if N.lt i.env peak = true then i.coef.cA else i.coef.cRl) (N.sub peak i.env))
    let target := if N.le env i.thr = true then N.ofInt 1 else N.div i.thr env
    let gr := N.add i.gr (N.mul i.coef.cG (N.sub target i.gr))
    let read := fun side : Nat => (i.laW + s.cfg.laBufSize - i.laLen) % s.cfg.laBufSize * 2 + side
    let delayed := fun (side : Nat) (now : NumVal) =>
      if read side = i.laW * 2 + side then now else memRead i.la (read side)
    let oL := Rule.output N i.latched.sat gr env i.thr (delayed 0 l)
    let oR := Rule.output N i.latched.sat gr env i.thr (delayed 1 r)
    let put := fun (old v : NumVal) => if i.latched.mode = .overwrite then v else N.add old v
    (preLimit s.cfg s.bus i).l = l ∧ (preLimit s.cfg s.bus i).r = r ∧
    ∃ t, exec .frame s = .next t ∧ t.inst.sMaster = m ∧ t.inst.env = env ∧ t.inst.gr = gr ∧
      memRead t.inst.la (i.laW * 2) = l ∧ memRead t.inst.la (i.laW * 2 + 1) = r ∧
      t.bus = laneWrite s.cfg i.latched.mode i.latched.outR oR
        (laneWrite s.cfg i.latched.mode i.latched.outL oL s.bus) ∧
      (Memory.wf s.bus = true → ∀ a : Nat, 1 ≤ a → a ≤ s.cfg.nb →
        let afterL := if i.latched.outL = a then put (memRead s.bus a) oL else memRead s.bus a
        memRead t.bus a = if i.latched.outR = a then put afterL oR else afterL)

/-- R121, R122, R131, R133, R141, R143, R144, R145, R160, R201, R202: what `FRAME` leaves in the
registers and the ring word of each channel the instance has, and what the channel adds to the mix, from
the state before the frame. Every formula stands here; those of `Rule` are written out in Rules.lean. -/
def Obligations.FrameChannelRegisters : Prop :=
  ∀ (s : State) (c : Fin 8), s.inst.run = true → c < s.inst.n → Memory.wf s.inst.fb = true →
    let i := s.inst
    let N := arithOps s.cfg.arith
    let L := i.latched.chan[c]
    let sFb := N.add i.chan[c].sFb (N.mul i.coef.cS (N.sub L.tFb i.chan[c].sFb))
    let sPan := N.add i.chan[c].sPan (N.mul i.coef.cS (N.sub L.tPan i.chan[c].sPan))
    let fbCv := N.div (memRead s.bus L.fbCvBus.toNat) (N.ofInt 5)
    let fbEff := if 1 ≤ L.fbCvBus ∧ L.fbCvBus ≤ s.cfg.nb then
        N.add (N.mul sFb (N.sub (N.ofInt 1) L.dFb))
          (N.mul (Rule.clamp N (N.add (N.mul fbCv (N.lit (1 / 2))) (N.lit (1 / 2))) (N.ofInt 0) (N.ofInt 1))
            L.dFb)
      else sFb
    let panCv := N.div (memRead s.bus L.panCvBus.toNat) (N.ofInt 5)
    let panEff := if 1 ≤ L.panCvBus ∧ L.panCvBus ≤ s.cfg.nb then
        Rule.clamp N (N.add sPan (N.mul panCv (N.mul (N.ofInt 100) L.dPan))) (N.ofInt (-100)) (N.ofInt 100)
      else sPan
    let angle := N.mul (N.div (N.add panEff (N.ofInt 100)) (N.ofInt 200)) N.halfPi
    let x := if 1 ≤ L.inBus ∧ L.inBus ≤ s.cfg.nb then memRead s.bus L.inBus.toNat else N.ofInt 0
    let tap := memRead i.fb ((i.fbW + s.cfg.fbBufSize - i.fbDelay) % s.cfg.fbBufSize * i.n + c)
    let y := N.add (N.sub tap i.chan[c].dcX1) (N.mul i.coef.cR i.chan[c].dcY1)
    let sig := N.add x (N.mul y fbEff)
    (channel s.cfg s.bus c i).l = N.mul sig (N.cos angle) ∧
    (channel s.cfg s.bus c i).r = N.mul sig (N.sin angle) ∧
    Rule.left s.cfg N s.bus i c = N.mul sig (N.cos angle) ∧
    Rule.right s.cfg N s.bus i c = N.mul sig (N.sin angle) ∧
    ∃ t, exec .frame s = .next t ∧ t.inst.chan[c] = ⟨sFb, sPan, tap, y⟩ ∧
      memRead t.inst.fb (i.fbW * i.n + c) = sig

/-- R200, R201, R206: the frame of `FRAME`. On a running instance it completes; both write indices
advance by one; the lifecycle bit, the channel count, the rate, the coefficients, both lengths, the
threshold, every raw and latched parameter, the registers of the channels the instance does not have,
every ring word outside the write slots, every lane that is not a valid output lane, and what the host
owns are unchanged. -/
def Obligations.FrameLeavesTheRest : Prop :=
  ∀ s : State, s.inst.run = true →
    ∃ t, exec .frame s = .next t ∧
      t.inst.fbW = (s.inst.fbW + 1) % s.cfg.fbBufSize ∧
      t.inst.laW = (s.inst.laW + 1) % s.cfg.laBufSize ∧
      t.inst.run = s.inst.run ∧ t.inst.n = s.inst.n ∧ t.inst.fs = s.inst.fs ∧
      t.inst.coef = s.inst.coef ∧ t.inst.fbDelay = s.inst.fbDelay ∧ t.inst.laLen = s.inst.laLen ∧
      t.inst.thr = s.inst.thr ∧ t.inst.raw = s.inst.raw ∧ t.inst.latched = s.inst.latched ∧
      (∀ c : Fin 8, s.inst.n ≤ c → t.inst.chan[c] = s.inst.chan[c]) ∧
      (∀ a, (∀ c : Fin 8, c < s.inst.n → a ≠ s.inst.fbW * s.inst.n + c) →
        memRead t.inst.fb a = memRead s.inst.fb a) ∧
      (∀ a, a ≠ s.inst.laW * 2 → a ≠ s.inst.laW * 2 + 1 →
        memRead t.inst.la a = memRead s.inst.la a) ∧
      (∀ a : Nat, (1 ≤ a → a ≤ s.cfg.nb →
          (a : Int) ≠ s.inst.latched.outL ∧ (a : Int) ≠ s.inst.latched.outR) →
        memRead t.bus a = memRead s.bus a) ∧
      t.hostFs = s.hostFs ∧ t.cfg = s.cfg ∧ t.port = s.port ∧ t.free = s.free

/-- R206, R207: what `FRAME` leaves on each lane of the bus, the left output before the right; `o` is
the limiter's answer. -/
def Obligations.FrameOutputLanes : Prop :=
  ∀ s : State, s.inst.run = true → Memory.wf s.bus = true →
    let N := arithOps s.cfg.arith
    let L := s.inst.latched
    let o := limit s.cfg (preLimit s.cfg s.bus s.inst)
    let put := fun (old v : NumVal) => if L.mode = .overwrite then v else N.add old v
    ∃ t, exec .frame s = .next t ∧ ∀ a : Nat, 1 ≤ a → a ≤ s.cfg.nb →
      let afterL := if L.outL = a then put (memRead s.bus a) o.l else memRead s.bus a
      memRead t.bus a = if L.outR = a then put afterL o.r else afterL

/-- R75, R56, R296: `FRAME` does not see the raw parameters: whatever they are, the frame is the same
and they are kept. -/
def Obligations.FrameIgnoresRawParameters : Prop :=
  ∀ (s : State) (p : RawParams), s.inst.run = true →
    ∃ t, exec .frame s = .next t ∧
      exec .frame (s.setInst (s.inst.setRaw p)) = .next (t.setInst (t.inst.setRaw p))

/-- R67, R135: the instance after `FRAME` depends on the bus only through the valid input and CV lanes
of its channels. -/
def Obligations.FrameReadsOnlyNamedLanes : Prop :=
  ∀ (s : State) (bus : Memory), s.inst.run = true →
    (∀ c : Fin 8, c < s.inst.n → ∀ lane ∈ [s.inst.latched.chan[c].inBus,
        s.inst.latched.chan[c].fbCvBus, s.inst.latched.chan[c].panCvBus],
      1 ≤ lane → lane ≤ s.cfg.nb → memRead bus lane.toNat = memRead s.bus lane.toNat) →
    ∃ t u, exec .frame s = .next t ∧ exec .frame (s.setBus bus) = .next u ∧ u.inst = t.inst

/-- R63, R62: what a channel's lane is given in a frame is its tap `S.fbDelay` frames later, whatever the
host puts on the bus in between. -/
def Obligations.FeedbackComesBackAfterDelay : Prop :=
  ∀ (s : State) (b : Memory) (rest : List Memory) (c : Fin 8), s.inst.run = true → c < s.inst.n →
    s.inst.fbW < s.cfg.fbBufSize → 1 ≤ s.inst.fbDelay → s.inst.fbDelay < s.cfg.fbBufSize →
    rest.length + 1 = s.inst.fbDelay →
    ∃ t u, frames [b] s = some t ∧ frames (b :: rest) s = some u ∧
      fbTap u.cfg c u.inst = memRead t.inst.fb (s.inst.fbW * s.inst.n + c)

/-- R182, R65, R66: the delayed sample of a frame is the mix that entered the limiter `S.laLen` frames
before, for `1 <= S.laLen < LA_BUF_SIZE`, whatever enters in that frame. -/
def Obligations.MixLeavesAfterLookahead : Prop :=
  ∀ (s : State) (b : Memory) (rest : List Memory) (x y : NumVal), s.inst.run = true →
    Memory.wf s.inst.la = true → s.inst.laW < s.cfg.laBufSize → 1 ≤ s.inst.laLen →
    s.inst.laLen < s.cfg.laBufSize → rest.length + 1 = s.inst.laLen →
    ∃ u, frames (b :: rest) s = some u ∧
      laRead u.cfg 0 (laWrite x y u.inst) = (preLimit s.cfg b s.inst).l ∧
      laRead u.cfg 1 (laWrite x y u.inst) = (preLimit s.cfg b s.inst).r

/-- R66, R182, R298: with a lookahead of the whole buffer the delayed sample is the one just written. -/
def Obligations.WholeBufferLookaheadHasNoDelay : Prop :=
  ∀ (C : Cfg) (i : Instance) (x y : NumVal), Memory.wf i.la = true → i.laW < C.laBufSize →
    i.laLen = C.laBufSize → laRead C 0 (laWrite x y i) = x ∧ laRead C 1 (laWrite x y i) = y

/-- R192: while the envelope does not exceed the threshold and the gain is 1 after step 6, the limiter is
a pure delay, in exact arithmetic. -/
def Obligations.TransparentLimiterIsADelay : Prop :=
  ∀ (C : Cfg) (a : Stereo), C.arith = .exactReals → (limit C a).inst.gr = .rat 1 →
    exactLe (limit C a).inst.env a.inst.thr = true →
    (limit C a).l = laRead C 0 (laWrite a.l a.r a.inst) ∧
    (limit C a).r = laRead C 1 (laWrite a.l a.r a.inst)

/-- R148: with an effective feedback amount of 0 the channel is an exact passthrough, in exact
arithmetic, whatever the filter gives. -/
def Obligations.ZeroFeedbackIsPassthrough : Prop :=
  ∀ x y : NumVal, fbSum exactOps x y (.rat 0) = x

/-- R62: the feedback read slot is `(S.fbW - S.fbDelay) mod FB_BUF_SIZE`, and it is never the write slot;
R65: the lookahead read slot likewise, and it is the write slot exactly when the length is the whole
buffer. -/
def Obligations.RingReadSlots : Prop :=
  ∀ size w d : Nat, w < size → 1 ≤ d → d ≤ size →
    ((ringRead size w d : Int) = ((w : Int) - d) % size) ∧ (ringRead size w d = w ↔ d = size)

/-! ### The arithmetic of the signal path -/

/-- R14: exact arithmetic on the machine's carrier computes the real operations, and its comparisons are
the order of the real numbers, for every two values. -/
def Obligations.ExactArithmeticIsReal : Prop :=
  ∀ a b : NumVal, realValue (exactAdd a b) = realValue a + realValue b ∧
    realValue (exactSub a b) = realValue a - realValue b ∧
    realValue (exactMul a b) = realValue a * realValue b ∧
    realValue (exactDiv a b) = realValue a / realValue b ∧
    realValue (exactMax a b) = max (realValue a) (realValue b) ∧
    realValue (exactAbs a) = |realValue a| ∧ realValue (exactTanh a) = Real.tanh (realValue a) ∧
    realValue (exactCos a) = Real.cos (realValue a) ∧
    realValue (exactSin a) = Real.sin (realValue a) ∧
    realValue (exactExp a) = Real.exp (realValue a) ∧
    (exactLt a b = true ↔ realValue a < realValue b) ∧
    (exactLe a b = true ↔ realValue a ≤ realValue b) ∧ (exactEq a b = true ↔ realValue a = realValue b)

/-- R121, R143, R144, R160, R171: the micro-operations without a comparison, computed by the machine in
exact arithmetic, have the values of the rules' formulas, written out over the reals. -/
def Obligations.MicroOperationsMatchReals : Prop :=
  ∀ a b c d : NumVal,
    realValue (smooth exactOps a b c) = realValue b + realValue a * (realValue c - realValue b) ∧
    realValue (dcOut exactOps a b c d) = (realValue d - realValue b) + realValue a * realValue c ∧
    realValue (fbSum exactOps a b c) = realValue a + realValue b * realValue c ∧
    realValue (pan exactOps a).1 = Real.cos ((realValue a + 100) / 200 * (Real.pi / 2)) ∧
    realValue (pan exactOps a).2 = Real.sin ((realValue a + 100) / 200 * (Real.pi / 2)) ∧
    realValue (satSoft exactOps a) = Real.tanh (realValue a)

/-- R123 over the reals: the laws of `SMOOTH` for `0 < k <= 1` and a constant target. -/
def Obligations.SmootherLaws : Prop :=
  ∀ k T : ℝ, 0 < k → k ≤ 1 →
    let S := fun p => smooth realOps k p T
    S T = T ∧
    (∀ (n : ℕ) (p : ℝ), S^[n] p = T + (1 - k) ^ n * (p - T)) ∧
    (∀ p, p ≤ T → p ≤ S p ∧ S p ≤ T) ∧ (∀ p, T ≤ p → T ≤ S p ∧ S p ≤ p) ∧
    (k = 1 → ∀ p, S p = T) ∧
    (k < 1 → ∀ p, p ≠ T → ∀ n : ℕ, S^[n] p ≠ T) ∧
    (∀ p ε : ℝ, 0 < ε → ∃ n : ℕ, ∀ m, n ≤ m → |S^[m] p - T| < ε) ∧
    ∀ lo hi p, lo ≤ p → p ≤ hi → lo ≤ T → T ≤ hi → lo ≤ S p ∧ S p ≤ hi

/-- R149 over the reals: the laws of the DC blocker for `0 <= R < 1`. -/
def Obligations.DcBlockerLaws : Prop :=
  ∀ R : ℝ, 0 ≤ R → R < 1 →
    (∀ n, dcOutput R (fun _ => 0) n = 0) ∧
    (∀ D n, dcOutput R (fun _ => D) n = R ^ n * D) ∧
    (∀ D, Filter.Tendsto (dcOutput R fun _ => D) Filter.atTop (nhds 0)) ∧
    dcOutput R (fun n => if n = 0 then 1 else 0) 0 = 1 ∧
    (∀ n, dcOutput R (fun n => if n = 0 then 1 else 0) (n + 1) = (R - 1) * R ^ n) ∧
    Filter.Tendsto (fun n => (-1) ^ n * dcOutput R (fun n => (-1) ^ n) n) Filter.atTop
      (nhds (2 / (1 + R))) ∧
    1 < 2 / (1 + R)

/-- R131 to R134 over the reals: the formulas of the two CV blends, and their corner cases. -/
def Obligations.CvModulationCorners : Prop :=
  (∀ v : ℝ, v ≤ -5 → unipolarCv realOps v = 0) ∧ (∀ v : ℝ, 5 ≤ v → unipolarCv realOps v = 1) ∧
  (∀ v : ℝ, -5 ≤ v → v ≤ 5 → unipolarCv realOps v = v / 5 * 0.5 + 0.5) ∧
  unipolarCv realOps 0 = 1 / 2 ∧
  (∀ base d v : ℝ, cvFbBlend realOps base d v = base * (1 - d) + unipolarCv realOps v * d) ∧
  (∀ base v : ℝ, cvFbBlend realOps base 0 v = base) ∧
  (∀ base v : ℝ, cvFbBlend realOps base 1 v = unipolarCv realOps v) ∧
  (∀ base d v : ℝ, 0 ≤ base → base ≤ 1 → 0 ≤ d → d ≤ 1 →
    0 ≤ cvFbBlend realOps base d v ∧ cvFbBlend realOps base d v ≤ 1) ∧
  (∀ base d v : ℝ, cvPanSum realOps base d v = max (-100) (min 100 (base + v / 5 * (100 * d)))) ∧
  (∀ base d v : ℝ, -100 ≤ cvPanSum realOps base d v ∧ cvPanSum realOps base d v ≤ 100) ∧
  (∀ base v : ℝ, -100 ≤ base → base ≤ 100 → cvPanSum realOps base 0 v = base) ∧
  (∀ base d : ℝ, -100 ≤ base → base ≤ 100 → cvPanSum realOps base d 0 = base) ∧
  (∀ base : ℝ, -100 ≤ base → base ≤ 0 → cvPanSum realOps base 1 5 = base + 100) ∧
  (∀ base : ℝ, 0 ≤ base → base ≤ 100 → cvPanSum realOps base 1 (-5) = base - 100) ∧
  cvPanSum realOps 0 1 5 = 100 ∧ cvPanSum realOps 0 1 (-5) = -100 ∧
  (∀ base : ℝ, -100 ≤ base → cvPanSum realOps base (1 / 2) 20 = 100)

/-- R161 over the reals: the stated values of the gains. -/
def Obligations.PanGainValues : Prop :=
  pan realOps (-100) = (1, 0) ∧ pan realOps 100 = (0, 1) ∧
  pan realOps 0 = (√2 / 2, √2 / 2) ∧
  pan realOps (-50) = (Real.cos (Real.pi / 8), Real.sin (Real.pi / 8)) ∧
  pan realOps 50 = (Real.sin (Real.pi / 8), Real.cos (Real.pi / 8)) ∧
  |Real.cos (Real.pi / 8) - 0.92387953| < 1 / 10 ^ 8 ∧ |Real.sin (Real.pi / 8) - 0.38268343| < 1 / 10 ^ 8 ∧
  pan realOps (-100 / 3) = (√3 / 2, 1 / 2)

/-- R162 over the reals: equal power, ranges, monotone gains and symmetry for a pan in `[-100, 100]`. -/
def Obligations.PanKeepsPower : Prop :=
  (∀ p ∈ Set.Icc (-100 : ℝ) 100, (pan realOps p).1 ^ 2 + (pan realOps p).2 ^ 2 = 1 ∧
    (pan realOps p).1 ∈ Set.Icc 0 1 ∧ (pan realOps p).2 ∈ Set.Icc 0 1 ∧
    pan realOps (-p) = ((pan realOps p).2, (pan realOps p).1)) ∧
  StrictAntiOn (fun p => (pan realOps p).1) (Set.Icc (-100) 100) ∧
  StrictMonoOn (fun p => (pan realOps p).2) (Set.Icc (-100) 100)

/-- R171 over the reals: the Soft curve. -/
def Obligations.SoftCurveLaws : Prop :=
  (∀ x, sat realOps .soft x = Real.tanh x) ∧ sat realOps .soft 0 = 0 ∧
  (∀ x, sat realOps .soft (-x) = -sat realOps .soft x) ∧ StrictMono (sat realOps .soft) ∧
  (∀ x, |sat realOps .soft x| < 1) ∧
  (∀ x, x ≠ 0 → sat realOps .soft x ≠ x) ∧
  |sat realOps .soft 1 - 0.76159416| < 1 / 10 ^ 8 ∧ |sat realOps .soft (1 / 2) - 0.46211716| < 1 / 10 ^ 8

/-- R172 over the reals: the Tube curve. -/
def Obligations.TubeCurveLaws : Prop :=
  (∀ x, 0 ≤ x → sat realOps .tube x = Real.tanh (0.8 * x) * 1.1) ∧
  (∀ x, x < 0 → sat realOps .tube x = Real.tanh (1.2 * x) * 0.9) ∧
  sat realOps .tube 0 = 0 ∧ StrictMonoOn (sat realOps .tube) (Set.Ici 0) ∧
  StrictMonoOn (sat realOps .tube) (Set.Iio 0) ∧ ContinuousAt (sat realOps .tube) 0 ∧
  (∀ x, -0.9 < sat realOps .tube x ∧ sat realOps .tube x < 1.1) ∧
  (∃ x, 1 < sat realOps .tube x) ∧ ∃ x, sat realOps .tube (-x) ≠ -sat realOps .tube x

/-- R173 over the reals: the Hard curve, its end points and its jump. -/
def Obligations.HardCurveLaws : Prop :=
  (∀ x, |x| ≤ 0.8 → sat realOps .hard x = x) ∧
  (∀ x, 0.8 < x → x ≤ 1 → sat realOps .hard x = 0.8 + (x - 0.8) * 0.5) ∧
  (∀ x, 1 < x → sat realOps .hard x = 1) ∧
  (∀ x, sat realOps .hard (-x) = -sat realOps .hard x) ∧ (∀ x, |sat realOps .hard x| ≤ 1) ∧
  sat realOps .hard 0.9 = 0.85 ∧ sat realOps .hard 1 = 0.9 ∧ sat realOps .hard (-0.9) = -0.85 ∧
  ¬ ContinuousAt (sat realOps .hard) 1

/-- R175 over the reals: the bounds of the curve scaled by the threshold. -/
def Obligations.CurveBoundsByThreshold : Prop :=
  ∀ v thr : ℝ, 0 < thr → |satN realOps .soft v thr| < thr ∧ |satN realOps .hard v thr| ≤ thr ∧
    -0.9 * thr < satN realOps .tube v thr ∧ satN realOps .tube v thr < 1.1 * thr

/-- R183, R184 over the reals: the envelope moves towards the peak and stays at or above 0; an equal
peak leaves it. -/
def Obligations.EnvelopeLaws : Prop :=
  ∀ (K : Coeffs ℝ) (env l r : ℝ), 0 < K.cRl → K.cRl ≤ K.cA → K.cA ≤ 1 → 0 ≤ env →
    let peak := peakOf realOps l r
    let env' := envNext realOps K env peak
    peak = max |l| |r| ∧ 0 ≤ peak ∧
    (env < peak → env' = env + K.cA * (peak - env)) ∧
    (peak ≤ env → env' = env + K.cRl * (peak - env)) ∧
    min env peak ≤ env' ∧ env' ≤ max env peak ∧ 0 ≤ env' ∧ (peak = env → env' = env)

/-- R185 over the reals: the target gain is 1 up to the threshold, and the quotient, strictly between 0
and 1, above it. -/
def Obligations.TargetGainLaw : Prop :=
  ∀ env thr : ℝ, 0 < thr →
    (env ≤ thr → gainTarget realOps env thr = 1) ∧
    (thr < env → gainTarget realOps env thr = thr / env ∧ 0 < gainTarget realOps env thr ∧
      gainTarget realOps env thr < 1) ∧
    gainTarget realOps 4 2 = 1 / 2

/-- R186 over the reals: one coefficient moves the gain both ways, and it stays in `(0, 1]`. -/
def Obligations.SmoothedGainLaw : Prop :=
  ∀ (K : Coeffs ℝ) (gr target : ℝ), 0 < K.cG → K.cG ≤ 1 → 0 < gr → gr ≤ 1 → 0 < target → target ≤ 1 →
    gainNext realOps K gr target = gr + K.cG * (target - gr) ∧
    0 < gainNext realOps K gr target ∧ gainNext realOps K gr target ≤ 1

/-- R188, R301 over the reals: an envelope above the threshold always leaves the gain below 1, so the
second test never decides; and with `cG < 1` a gain once below 1 stays below 1, so the curve stays
engaged. -/
def Obligations.CurveStaysEngaged : Prop :=
  ∀ (K : Coeffs ℝ) (gr env thr : ℝ), 0 < K.cG → K.cG ≤ 1 → 0 < gr → gr ≤ 1 → 0 < thr →
    let gr' := gainNext realOps K gr (gainTarget realOps env thr)
    (thr < env → gr' < 1) ∧ (K.cG < 1 → gr < 1 → gr' < 1 ∧ engaged realOps gr' env thr = true)

/-- R211 over the reals: the threshold is the linear interpolation, runs from `VMAX` to `VMIN`, stays
between them, and falls as the squash rises. -/
def Obligations.ThresholdFallsWithSquash : Prop :=
  ∀ vMax vMin : ℝ, 0 < vMin → vMin ≤ vMax →
    let T := thresh realOps vMax vMin
    (∀ raw : Raw, T raw = vMax + ((clampi raw.toInt 0 100 : ℤ) : ℝ) / 100 * (vMin - vMax) ∧
      vMin ≤ T raw ∧ T raw ≤ vMax) ∧
    T 0 = vMax ∧ T 100 = vMin ∧
    (∀ a b : Raw, a.toInt ≤ b.toInt → T b ≤ T a) ∧
    ∀ a b : Raw, vMin < vMax → 0 ≤ a.toInt → a.toInt < b.toInt → b.toInt ≤ 100 → T b < T a

/-! ### The coefficients, and the machine's branches in exact arithmetic -/

/-- R36, R11: what `COEF` gives. At a rate the configuration lists, the coefficients of its first row; at
any other rate above 0 in exact arithmetic the real values `1 - 2π·5/fs` and `2π·50/fs`; and there the
open steps are in their range in every arithmetic whose configuration is well formed. (That the range is
imposed where the spec leaves the function open is log 6.) -/
def Obligations.CoefficientsOfTheRate : Prop :=
  ∀ (C : Cfg) (fs : Rate),
    (∀ pre post k, (∀ e ∈ pre, e.1 ≠ fs) → C.coefTable = pre ++ (fs, k) :: post → coefOf C fs = k) ∧
    ((∀ e ∈ C.coefTable, e.1 ≠ fs) →
      let N := arithOps C.arith
      let k := coefOf C fs
      (C.arith = .exactReals → fs ≠ 0 →
        realValue k.cR = 1 - 2 * Real.pi * 5 / (fs.toNat : ℝ) ∧
        realValue k.cS = 2 * Real.pi * 50 / (fs.toNat : ℝ)) ∧
      (cfgWf C = true → N.lt (N.ofInt 0) k.cRl = true ∧ N.le k.cRl k.cA = true ∧
        N.le k.cA (N.ofInt 1) = true ∧ N.lt (N.ofInt 0) k.cG = true ∧ N.le k.cG (N.ofInt 1) = true))

/-- R131, R133, R172, R173, R183 to R188, R170, R211: the operations that compare, computed by the
machine in exact arithmetic, have the values of the rules' formulas, written out over the reals; every
branch is decided by the order of the real numbers. -/
def Obligations.ComparingOperationsMatchReals : Prop :=
  (∀ base depth v : NumVal,
    realValue (cvFbBlend exactOps base depth v) = realValue base * (1 - realValue depth) +
      max 0 (min 1 (realValue v / 5 * 0.5 + 0.5)) * realValue depth ∧
    realValue (cvPanSum exactOps base depth v) =
      max (-100) (min 100 (realValue base + realValue v / 5 * (100 * realValue depth)))) ∧
  (∀ x : NumVal,
    realValue (sat exactOps .tube x) =
      (if 0 ≤ realValue x then Real.tanh (0.8 * realValue x) * 1.1
        else Real.tanh (1.2 * realValue x) * 0.9) ∧
    realValue (sat exactOps .hard x) =
      let m := if |realValue x| ≤ 1 then 0.8 + (|realValue x| - 0.8) * 0.5 else 1
      if |realValue x| ≤ 0.8 then realValue x else if realValue x < 0 then -m else m) ∧
  (∀ (K : Coeffs NumVal) (env peak gr target thr : NumVal),
    realValue (peakOf exactOps env peak) = max |realValue env| |realValue peak| ∧
    realValue (envNext exactOps K env peak) = realValue env +
      (if realValue env < realValue peak then realValue K.cA else realValue K.cRl) *
        (realValue peak - realValue env) ∧
    realValue (gainTarget exactOps env thr) =
      (if realValue env ≤ realValue thr then 1 else realValue thr / realValue env) ∧
    realValue (gainNext exactOps K gr target) =
      realValue gr + realValue K.cG * (realValue target - realValue gr)) ∧
  (∀ (sel : SatCurve) (gr env thr d : NumVal),
    realValue (limitSide exactOps sel gr env thr d) =
      if realValue gr < 1 ∨ realValue thr < realValue env then
        realValue (sat exactOps sel (exactDiv (exactMul d gr) thr)) * realValue thr
      else realValue d * realValue gr) ∧
  ∀ (vMax vMin : NumVal) (raw : Raw),
    realValue (thresh exactOps vMax vMin raw) = min (realValue vMax) (max (realValue vMin)
      (realValue vMax + ((clampi raw.toInt 0 100 : ℤ) : ℝ) / 100 * (realValue vMin - realValue vMax)))

/-- R192 on the machine in exact arithmetic: from a gain of 1 and an envelope within the threshold, with
steps in their range, a mix within the threshold leaves the gain 1 and the envelope within the threshold,
and both outputs are the delayed samples. (So it stays for as long as the mix stays within.) -/
def Obligations.LimiterStaysTransparent : Prop :=
  ∀ (C : Cfg) (a : Stereo), C.arith = .exactReals → a.inst.gr = .rat 1 →
    stepsInRange exactOps a.inst.coef = true → 0 ≤ realValue a.inst.env →
    realValue a.inst.env ≤ realValue a.inst.thr → |realValue a.l| ≤ realValue a.inst.thr →
    |realValue a.r| ≤ realValue a.inst.thr →
    (limit C a).inst.gr = .rat 1 ∧ 0 ≤ realValue (limit C a).inst.env ∧
    realValue (limit C a).inst.env ≤ realValue a.inst.thr ∧
    (limit C a).l = laRead C 0 (laWrite a.l a.r a.inst) ∧
    (limit C a).r = laRead C 1 (laWrite a.l a.r a.inst)

/-- R188, R301, R305, R175 on the machine in exact arithmetic: with steps in their range, a positive gain
below 1 and `cG < 1`, the gain stays positive and below 1 whatever enters, and so both outputs pass the
curve and obey its bounds. -/
def Obligations.LimiterStaysEngaged : Prop :=
  ∀ (C : Cfg) (a : Stereo), C.arith = .exactReals → stepsInRange exactOps a.inst.coef = true →
    realValue a.inst.coef.cG < 1 → 0 < realValue a.inst.thr → 0 < realValue a.inst.gr →
    realValue a.inst.gr < 1 →
    let o := limit C a
    let d := fun side => laRead C side (laWrite a.l a.r a.inst)
    0 < realValue o.inst.gr ∧ realValue o.inst.gr < 1 ∧
    o.l = satN exactOps a.inst.latched.sat (exactMul (d 0) o.inst.gr) a.inst.thr ∧
    o.r = satN exactOps a.inst.latched.sat (exactMul (d 1) o.inst.gr) a.inst.thr ∧
    ∀ v ∈ [o.l, o.r], match a.inst.latched.sat with
      | .soft => |realValue v| < realValue a.inst.thr
      | .hard => |realValue v| ≤ realValue a.inst.thr
      | .tube => -0.9 * realValue a.inst.thr < realValue v ∧ realValue v < 1.1 * realValue a.inst.thr
end

