-- ==== Sys2Proof/Laws/Memory.lean ====
section
/-! SUPPORT. The laws of memory: a read after a write, and the canonical form, which every memory
operation keeps. -/

namespace Sys2Proof.Machine

@[simp] theorem memRead_nil (a : Nat) : memRead [] a = zeroWord := rfl

/-- A write leaves every other word alone, whatever the memory. -/
theorem memRead_memWrite_other (m : Memory) {a b : Nat} (v : NumVal) (h : a ≠ b) :
    memRead (memWrite m b v) a = memRead m a := by
  induction m with
  | nil => by_cases hv : v = zeroWord <;> simp [memWrite, memRead, hv, h]
  | cons p rest ih =>
    obtain ⟨x, w⟩ := p
    rcases Nat.lt_trichotomy b x with hb | hb | hb
    · by_cases hv : v = zeroWord <;> simp [memWrite, memRead, hv, h, hb]
    · subst hb
      by_cases hv : v = zeroWord <;> simp [memWrite, memRead, hv, h]
    · have h1 : ¬ b < x := by omega
      have h2 : b ≠ x := by omega
      simp [memWrite, memRead, h1, h2, ih]

theorem memSorted_weaken {m : Memory} {lo : Option Nat} (h : memSorted lo m = true) :
    memSorted none m = true := by
  cases m with
  | nil => rfl
  | cons p rest => simp_all [memSorted]

/-- Below the first listed address everything reads as an unlisted word. -/
theorem memRead_below {m : Memory} {a : Nat} (h : memSorted (some a) m = true) :
    memRead m a = zeroWord := by
  induction m with
  | nil => rfl
  | cons p rest ih =>
    obtain ⟨x, w⟩ := p
    simp only [memSorted, Option.all_some, Bool.and_eq_true, decide_eq_true_eq] at h
    have hr : memSorted (some a) rest = true := by
      cases rest with
      | nil => rfl
      | cons q r =>
        obtain ⟨y, u⟩ := q
        simp only [memSorted, Option.all_some, Bool.and_eq_true, decide_eq_true_eq] at h ⊢
        exact ⟨⟨by omega, h.2.1.2⟩, h.2.2⟩
    simp [memRead, Nat.ne_of_lt h.1.1, ih hr]

theorem memRead_memWrite_same_of {m : Memory} {lo : Option Nat} (a : Nat) (v : NumVal)
    (h : memSorted lo m = true) : memRead (memWrite m a v) a = v := by
  induction m generalizing lo with
  | nil => by_cases hv : v = zeroWord <;> simp [memWrite, memRead, hv]
  | cons p rest ih =>
    obtain ⟨x, w⟩ := p
    have hr : memSorted (some x) rest = true := by
      simp only [memSorted, Bool.and_eq_true] at h; exact h.2
    rcases Nat.lt_trichotomy a x with hb | hb | hb
    · by_cases hv : v = zeroWord
      · have : memSorted (some a) ((x, w) :: rest) = true := by
          simp only [memSorted, Option.all_some, Bool.and_eq_true, decide_eq_true_eq] at h ⊢
          exact ⟨⟨hb, h.1.2⟩, h.2⟩
        simp [memWrite, hb, hv, memRead_below this]
      · simp [memWrite, memRead, hb, hv]
    · subst hb
      by_cases hv : v = zeroWord
      · simp [memWrite, hv, memRead_below hr]
      · simp [memWrite, memRead, hv]
    · have h1 : ¬ a < x := by omega
      have h2 : a ≠ x := by omega
      simp [memWrite, memRead, h1, h2, ih hr]

/-- A word of a canonical memory reads as what was written to it last. -/
theorem memRead_memWrite_same {m : Memory} (a : Nat) (v : NumVal) (h : Memory.wf m = true) :
    memRead (memWrite m a v) a = v := memRead_memWrite_same_of a v h

theorem memSorted_memWrite {m : Memory} {lo : Option Nat} (a : Nat) (v : NumVal)
    (h : memSorted lo m = true) (hlo : lo.all (· < a) = true) :
    memSorted lo (memWrite m a v) = true := by
  induction m generalizing lo with
  | nil => by_cases hv : v = zeroWord <;> simp_all [memWrite, memSorted]
  | cons p rest ih =>
    obtain ⟨x, w⟩ := p
    simp only [memSorted, Bool.and_eq_true] at h
    rcases Nat.lt_trichotomy a x with hb | hb | hb
    · by_cases hv : v = zeroWord
      · simp [memWrite, hb, hv, memSorted, h]
      · have hw : ¬ w = zeroWord := by simpa using h.1.2
        simp [memWrite, hb, hv, memSorted, h, hlo, hw]
    · subst hb
      by_cases hv : v = zeroWord
      · simp only [memWrite, Nat.lt_irrefl, if_false, if_true, hv]
        cases rest with
        | nil => rfl
        | cons q r =>
          obtain ⟨y, u⟩ := q
          simp only [memSorted, Option.all_some, Bool.and_eq_true, decide_eq_true_eq] at h ⊢
          refine ⟨⟨?_, h.2.1.2⟩, h.2.2⟩
          cases lo with
          | none => rfl
          | some l => simp only [Option.all_some, decide_eq_true_eq] at hlo ⊢; omega
      · simp [memWrite, hv, memSorted, h]
    · have h1 : ¬ a < x := by omega
      have h2 : a ≠ x := by omega
      simp [memWrite, h1, h2, memSorted, h, ih h.2 (by simpa using hb)]

/-- A write keeps the canonical form. -/
theorem memWrite_wf {m : Memory} (a : Nat) (v : NumVal) (h : Memory.wf m = true) :
    Memory.wf (memWrite m a v) = true := memSorted_memWrite a v h rfl

@[simp] theorem memory_nil_wf : Memory.wf [] = true := rfl

/-- The memory of a list of writes is canonical. -/
theorem memOfWrites_wf (m : Memory) : Memory.wf (memOfWrites m) = true := by
  have : ∀ (l : Memory) (acc : Memory), Memory.wf acc = true →
      Memory.wf (l.foldl (fun acc p => memWrite acc p.1 p.2) acc) = true := by
    intro l
    induction l with
    | nil => intro acc h; exact h
    | cons p l ih => intro acc h; exact ih _ (memWrite_wf p.1 p.2 h)
  exact this m [] rfl

/-- A write lists no address but its own beside those listed before. -/
theorem mem_memWrite {m : Memory} {a : Nat} {v : NumVal} {p : Nat × NumVal}
    (h : p ∈ memWrite m a v) : p.1 = a ∨ p ∈ m := by
  induction m with
  | nil =>
    by_cases hv : v = zeroWord
    · simp [memWrite, hv] at h
    · simp only [memWrite, hv, if_false, List.mem_singleton] at h
      exact .inl (by rw [h])
  | cons q rest ih =>
    obtain ⟨x, w⟩ := q
    simp only [memWrite] at h
    split at h
    · split at h
      · exact .inr h
      · rcases List.mem_cons.mp h with h | h
        · exact .inl (by rw [h])
        · exact .inr h
    · split at h
      · split at h
        · exact .inr (List.mem_cons_of_mem _ h)
        · rcases List.mem_cons.mp h with h | h
          · exact .inl (by rw [h])
          · exact .inr (List.mem_cons_of_mem _ h)
      · rcases List.mem_cons.mp h with h | h
        · exact .inr (by rw [h]; exact List.mem_cons_self)
        · exact (ih h).imp id (List.mem_cons_of_mem _)

/-- Canonical memories that read the same at every address are the same data. -/
theorem memory_ext_of {m m' : Memory} {lo lo' : Option Nat} (h : memSorted lo m = true)
    (h' : memSorted lo' m' = true) (hr : ∀ a, memRead m a = memRead m' a) : m = m' := by
  induction m generalizing m' lo lo' with
  | nil =>
    cases m' with
    | nil => rfl
    | cons q rest =>
      have := hr q.1
      simp [memRead] at this
      simp_all [memSorted]
  | cons p rest ih =>
    obtain ⟨x, w⟩ := p
    simp only [memSorted, Bool.and_eq_true, decide_eq_true_eq] at h
    cases m' with
    | nil =>
      have := hr x
      simp [memRead] at this
      exact absurd this h.1.2
    | cons q rest' =>
      obtain ⟨y, u⟩ := q
      simp only [memSorted, Bool.and_eq_true, decide_eq_true_eq] at h'
      have below : ∀ {z : Nat} {l : Memory} {a : Nat}, memSorted (some z) l = true → a < z →
          memSorted (some a) l = true := by
        intro z l a hz ha
        cases l with
        | nil => rfl
        | cons r l =>
          simp only [memSorted, Option.all_some, Bool.and_eq_true, decide_eq_true_eq] at hz ⊢
          exact ⟨⟨by omega, hz.1.2⟩, hz.2⟩
      rcases Nat.lt_trichotomy x y with hxy | hxy | hxy
      · have := hr x
        simp [memRead, Nat.ne_of_lt hxy, memRead_below (below h'.2 hxy)] at this
        exact absurd this h.1.2
      · subst hxy
        have hw : w = u := by simpa [memRead] using hr x
        subst hw
        congr 1
        refine ih h.2 h'.2 fun a => ?_
        by_cases ha : a = x
        · subst ha; rw [memRead_below h.2, memRead_below h'.2]
        · simpa [memRead, ha] using hr a
      · have := hr y
        simp [memRead, Nat.ne_of_lt hxy, memRead_below (below h.2 hxy)] at this
        exact absurd this.symm h'.1.2

/-- Canonical memories that read the same at every address are the same data. -/
theorem memory_ext {m m' : Memory} (h : Memory.wf m = true) (h' : Memory.wf m' = true)
    (hr : ∀ a, memRead m a = memRead m' a) : m = m' := memory_ext_of h h' hr

end Sys2Proof.Machine
end

