-- ==== Sys2Proof/Laws/State.lean ====
section
/-! SUPPORT. What each named update of the state does to each field: one lemma per field per update. -/

namespace Sys2Proof.Machine

@[simp] theorem State.setInst_inst (s : State) (i : Instance) : (s.setInst i).inst = i := rfl
@[simp] theorem State.setInst_bus (s : State) (i : Instance) : (s.setInst i).bus = s.bus := rfl
@[simp] theorem State.setInst_hostFs (s : State) (i : Instance) :
    (s.setInst i).hostFs = s.hostFs := rfl
@[simp] theorem State.setInst_cfg (s : State) (i : Instance) : (s.setInst i).cfg = s.cfg := rfl
@[simp] theorem State.setInst_port (s : State) (i : Instance) : (s.setInst i).port = s.port := rfl
@[simp] theorem State.setInst_free (s : State) (i : Instance) : (s.setInst i).free = s.free := rfl

@[simp] theorem State.setBus_inst (s : State) (m : Memory) : (s.setBus m).inst = s.inst := rfl
@[simp] theorem State.setBus_bus (s : State) (m : Memory) : (s.setBus m).bus = m := rfl
@[simp] theorem State.setBus_hostFs (s : State) (m : Memory) : (s.setBus m).hostFs = s.hostFs := rfl
@[simp] theorem State.setBus_cfg (s : State) (m : Memory) : (s.setBus m).cfg = s.cfg := rfl
@[simp] theorem State.setBus_port (s : State) (m : Memory) : (s.setBus m).port = s.port := rfl
@[simp] theorem State.setBus_free (s : State) (m : Memory) : (s.setBus m).free = s.free := rfl

@[simp] theorem State.setHostFs_inst (s : State) (f : Rate) : (s.setHostFs f).inst = s.inst := rfl
@[simp] theorem State.setHostFs_bus (s : State) (f : Rate) : (s.setHostFs f).bus = s.bus := rfl
@[simp] theorem State.setHostFs_hostFs (s : State) (f : Rate) : (s.setHostFs f).hostFs = f := rfl
@[simp] theorem State.setHostFs_cfg (s : State) (f : Rate) : (s.setHostFs f).cfg = s.cfg := rfl
@[simp] theorem State.setHostFs_port (s : State) (f : Rate) : (s.setHostFs f).port = s.port := rfl
@[simp] theorem State.setHostFs_free (s : State) (f : Rate) : (s.setHostFs f).free = s.free := rfl

@[simp] theorem State.setPort_inst (s : State) (q : List HostMove) :
    (s.setPort q).inst = s.inst := rfl
@[simp] theorem State.setPort_bus (s : State) (q : List HostMove) : (s.setPort q).bus = s.bus := rfl
@[simp] theorem State.setPort_hostFs (s : State) (q : List HostMove) :
    (s.setPort q).hostFs = s.hostFs := rfl
@[simp] theorem State.setPort_cfg (s : State) (q : List HostMove) : (s.setPort q).cfg = s.cfg := rfl
@[simp] theorem State.setPort_port (s : State) (q : List HostMove) : (s.setPort q).port = q := rfl
@[simp] theorem State.setPort_free (s : State) (q : List HostMove) :
    (s.setPort q).free = s.free := rfl

@[simp] theorem State.setFree_inst (s : State) (k : Nat) : (s.setFree k).inst = s.inst := rfl
@[simp] theorem State.setFree_bus (s : State) (k : Nat) : (s.setFree k).bus = s.bus := rfl
@[simp] theorem State.setFree_hostFs (s : State) (k : Nat) : (s.setFree k).hostFs = s.hostFs := rfl
@[simp] theorem State.setFree_cfg (s : State) (k : Nat) : (s.setFree k).cfg = s.cfg := rfl
@[simp] theorem State.setFree_port (s : State) (k : Nat) : (s.setFree k).port = s.port := rfl
@[simp] theorem State.setFree_free (s : State) (k : Nat) : (s.setFree k).free = k := rfl

@[simp] theorem Instance.setRun_run (i : Instance) (b : Bool) : (i.setRun b).run = b := rfl
@[simp] theorem Instance.setRun_n (i : Instance) (b : Bool) : (i.setRun b).n = i.n := rfl
@[simp] theorem Instance.setRun_fs (i : Instance) (b : Bool) : (i.setRun b).fs = i.fs := rfl
@[simp] theorem Instance.setRun_coef (i : Instance) (b : Bool) : (i.setRun b).coef = i.coef := rfl
@[simp] theorem Instance.setRun_chan (i : Instance) (b : Bool) : (i.setRun b).chan = i.chan := rfl
@[simp] theorem Instance.setRun_sMaster (i : Instance) (b : Bool) :
    (i.setRun b).sMaster = i.sMaster := rfl
@[simp] theorem Instance.setRun_fb (i : Instance) (b : Bool) : (i.setRun b).fb = i.fb := rfl
@[simp] theorem Instance.setRun_fbW (i : Instance) (b : Bool) : (i.setRun b).fbW = i.fbW := rfl
@[simp] theorem Instance.setRun_fbDelay (i : Instance) (b : Bool) :
    (i.setRun b).fbDelay = i.fbDelay := rfl
@[simp] theorem Instance.setRun_la (i : Instance) (b : Bool) : (i.setRun b).la = i.la := rfl
@[simp] theorem Instance.setRun_laW (i : Instance) (b : Bool) : (i.setRun b).laW = i.laW := rfl
@[simp] theorem Instance.setRun_laLen (i : Instance) (b : Bool) :
    (i.setRun b).laLen = i.laLen := rfl
@[simp] theorem Instance.setRun_env (i : Instance) (b : Bool) : (i.setRun b).env = i.env := rfl
@[simp] theorem Instance.setRun_gr (i : Instance) (b : Bool) : (i.setRun b).gr = i.gr := rfl
@[simp] theorem Instance.setRun_thr (i : Instance) (b : Bool) : (i.setRun b).thr = i.thr := rfl
@[simp] theorem Instance.setRun_raw (i : Instance) (b : Bool) : (i.setRun b).raw = i.raw := rfl
@[simp] theorem Instance.setRun_latched (i : Instance) (b : Bool) :
    (i.setRun b).latched = i.latched := rfl

@[simp] theorem Instance.setRate_run (i : Instance) (f : Rate) (k : Coeffs NumVal) :
    (i.setRate f k).run = i.run := rfl
@[simp] theorem Instance.setRate_n (i : Instance) (f : Rate) (k : Coeffs NumVal) :
    (i.setRate f k).n = i.n := rfl
@[simp] theorem Instance.setRate_fs (i : Instance) (f : Rate) (k : Coeffs NumVal) :
    (i.setRate f k).fs = f := rfl
@[simp] theorem Instance.setRate_coef (i : Instance) (f : Rate) (k : Coeffs NumVal) :
    (i.setRate f k).coef = k := rfl
@[simp] theorem Instance.setRate_chan (i : Instance) (f : Rate) (k : Coeffs NumVal) :
    (i.setRate f k).chan = i.chan := rfl
@[simp] theorem Instance.setRate_sMaster (i : Instance) (f : Rate) (k : Coeffs NumVal) :
    (i.setRate f k).sMaster = i.sMaster := rfl
@[simp] theorem Instance.setRate_fb (i : Instance) (f : Rate) (k : Coeffs NumVal) :
    (i.setRate f k).fb = i.fb := rfl
@[simp] theorem Instance.setRate_fbW (i : Instance) (f : Rate) (k : Coeffs NumVal) :
    (i.setRate f k).fbW = i.fbW := rfl
@[simp] theorem Instance.setRate_fbDelay (i : Instance) (f : Rate) (k : Coeffs NumVal) :
    (i.setRate f k).fbDelay = i.fbDelay := rfl
@[simp] theorem Instance.setRate_la (i : Instance) (f : Rate) (k : Coeffs NumVal) :
    (i.setRate f k).la = i.la := rfl
@[simp] theorem Instance.setRate_laW (i : Instance) (f : Rate) (k : Coeffs NumVal) :
    (i.setRate f k).laW = i.laW := rfl
@[simp] theorem Instance.setRate_laLen (i : Instance) (f : Rate) (k : Coeffs NumVal) :
    (i.setRate f k).laLen = i.laLen := rfl
@[simp] theorem Instance.setRate_env (i : Instance) (f : Rate) (k : Coeffs NumVal) :
    (i.setRate f k).env = i.env := rfl
@[simp] theorem Instance.setRate_gr (i : Instance) (f : Rate) (k : Coeffs NumVal) :
    (i.setRate f k).gr = i.gr := rfl
@[simp] theorem Instance.setRate_thr (i : Instance) (f : Rate) (k : Coeffs NumVal) :
    (i.setRate f k).thr = i.thr := rfl
@[simp] theorem Instance.setRate_raw (i : Instance) (f : Rate) (k : Coeffs NumVal) :
    (i.setRate f k).raw = i.raw := rfl
@[simp] theorem Instance.setRate_latched (i : Instance) (f : Rate) (k : Coeffs NumVal) :
    (i.setRate f k).latched = i.latched := rfl

@[simp] theorem Instance.setChan_run (i : Instance) (c : Fin 8) (r : ChanRun) :
    (i.setChan c r).run = i.run := rfl
@[simp] theorem Instance.setChan_n (i : Instance) (c : Fin 8) (r : ChanRun) :
    (i.setChan c r).n = i.n := rfl
@[simp] theorem Instance.setChan_fs (i : Instance) (c : Fin 8) (r : ChanRun) :
    (i.setChan c r).fs = i.fs := rfl
@[simp] theorem Instance.setChan_coef (i : Instance) (c : Fin 8) (r : ChanRun) :
    (i.setChan c r).coef = i.coef := rfl
@[simp] theorem Instance.setChan_chan (i : Instance) (c : Fin 8) (r : ChanRun) :
    (i.setChan c r).chan = i.chan.set c r := rfl
@[simp] theorem Instance.setChan_sMaster (i : Instance) (c : Fin 8) (r : ChanRun) :
    (i.setChan c r).sMaster = i.sMaster := rfl
@[simp] theorem Instance.setChan_fb (i : Instance) (c : Fin 8) (r : ChanRun) :
    (i.setChan c r).fb = i.fb := rfl
@[simp] theorem Instance.setChan_fbW (i : Instance) (c : Fin 8) (r : ChanRun) :
    (i.setChan c r).fbW = i.fbW := rfl
@[simp] theorem Instance.setChan_fbDelay (i : Instance) (c : Fin 8) (r : ChanRun) :
    (i.setChan c r).fbDelay = i.fbDelay := rfl
@[simp] theorem Instance.setChan_la (i : Instance) (c : Fin 8) (r : ChanRun) :
    (i.setChan c r).la = i.la := rfl
@[simp] theorem Instance.setChan_laW (i : Instance) (c : Fin 8) (r : ChanRun) :
    (i.setChan c r).laW = i.laW := rfl
@[simp] theorem Instance.setChan_laLen (i : Instance) (c : Fin 8) (r : ChanRun) :
    (i.setChan c r).laLen = i.laLen := rfl
@[simp] theorem Instance.setChan_env (i : Instance) (c : Fin 8) (r : ChanRun) :
    (i.setChan c r).env = i.env := rfl
@[simp] theorem Instance.setChan_gr (i : Instance) (c : Fin 8) (r : ChanRun) :
    (i.setChan c r).gr = i.gr := rfl
@[simp] theorem Instance.setChan_thr (i : Instance) (c : Fin 8) (r : ChanRun) :
    (i.setChan c r).thr = i.thr := rfl
@[simp] theorem Instance.setChan_raw (i : Instance) (c : Fin 8) (r : ChanRun) :
    (i.setChan c r).raw = i.raw := rfl
@[simp] theorem Instance.setChan_latched (i : Instance) (c : Fin 8) (r : ChanRun) :
    (i.setChan c r).latched = i.latched := rfl

@[simp] theorem Instance.setMaster_run (i : Instance) (v : NumVal) :
    (i.setMaster v).run = i.run := rfl
@[simp] theorem Instance.setMaster_n (i : Instance) (v : NumVal) : (i.setMaster v).n = i.n := rfl
@[simp] theorem Instance.setMaster_fs (i : Instance) (v : NumVal) : (i.setMaster v).fs = i.fs := rfl
@[simp] theorem Instance.setMaster_coef (i : Instance) (v : NumVal) :
    (i.setMaster v).coef = i.coef := rfl
@[simp] theorem Instance.setMaster_chan (i : Instance) (v : NumVal) :
    (i.setMaster v).chan = i.chan := rfl
@[simp] theorem Instance.setMaster_sMaster (i : Instance) (v : NumVal) :
    (i.setMaster v).sMaster = v := rfl
@[simp] theorem Instance.setMaster_fb (i : Instance) (v : NumVal) : (i.setMaster v).fb = i.fb := rfl
@[simp] theorem Instance.setMaster_fbW (i : Instance) (v : NumVal) :
    (i.setMaster v).fbW = i.fbW := rfl
@[simp] theorem Instance.setMaster_fbDelay (i : Instance) (v : NumVal) :
    (i.setMaster v).fbDelay = i.fbDelay := rfl
@[simp] theorem Instance.setMaster_la (i : Instance) (v : NumVal) : (i.setMaster v).la = i.la := rfl
@[simp] theorem Instance.setMaster_laW (i : Instance) (v : NumVal) :
    (i.setMaster v).laW = i.laW := rfl
@[simp] theorem Instance.setMaster_laLen (i : Instance) (v : NumVal) :
    (i.setMaster v).laLen = i.laLen := rfl
@[simp] theorem Instance.setMaster_env (i : Instance) (v : NumVal) :
    (i.setMaster v).env = i.env := rfl
@[simp] theorem Instance.setMaster_gr (i : Instance) (v : NumVal) : (i.setMaster v).gr = i.gr := rfl
@[simp] theorem Instance.setMaster_thr (i : Instance) (v : NumVal) :
    (i.setMaster v).thr = i.thr := rfl
@[simp] theorem Instance.setMaster_raw (i : Instance) (v : NumVal) :
    (i.setMaster v).raw = i.raw := rfl
@[simp] theorem Instance.setMaster_latched (i : Instance) (v : NumVal) :
    (i.setMaster v).latched = i.latched := rfl

@[simp] theorem Instance.setFb_run (i : Instance) (m : Memory) : (i.setFb m).run = i.run := rfl
@[simp] theorem Instance.setFb_n (i : Instance) (m : Memory) : (i.setFb m).n = i.n := rfl
@[simp] theorem Instance.setFb_fs (i : Instance) (m : Memory) : (i.setFb m).fs = i.fs := rfl
@[simp] theorem Instance.setFb_coef (i : Instance) (m : Memory) : (i.setFb m).coef = i.coef := rfl
@[simp] theorem Instance.setFb_chan (i : Instance) (m : Memory) : (i.setFb m).chan = i.chan := rfl
@[simp] theorem Instance.setFb_sMaster (i : Instance) (m : Memory) :
    (i.setFb m).sMaster = i.sMaster := rfl
@[simp] theorem Instance.setFb_fb (i : Instance) (m : Memory) : (i.setFb m).fb = m := rfl
@[simp] theorem Instance.setFb_fbW (i : Instance) (m : Memory) : (i.setFb m).fbW = i.fbW := rfl
@[simp] theorem Instance.setFb_fbDelay (i : Instance) (m : Memory) :
    (i.setFb m).fbDelay = i.fbDelay := rfl
@[simp] theorem Instance.setFb_la (i : Instance) (m : Memory) : (i.setFb m).la = i.la := rfl
@[simp] theorem Instance.setFb_laW (i : Instance) (m : Memory) : (i.setFb m).laW = i.laW := rfl
@[simp] theorem Instance.setFb_laLen (i : Instance) (m : Memory) :
    (i.setFb m).laLen = i.laLen := rfl
@[simp] theorem Instance.setFb_env (i : Instance) (m : Memory) : (i.setFb m).env = i.env := rfl
@[simp] theorem Instance.setFb_gr (i : Instance) (m : Memory) : (i.setFb m).gr = i.gr := rfl
@[simp] theorem Instance.setFb_thr (i : Instance) (m : Memory) : (i.setFb m).thr = i.thr := rfl
@[simp] theorem Instance.setFb_raw (i : Instance) (m : Memory) : (i.setFb m).raw = i.raw := rfl
@[simp] theorem Instance.setFb_latched (i : Instance) (m : Memory) :
    (i.setFb m).latched = i.latched := rfl

@[simp] theorem Instance.setFbW_run (i : Instance) (k : Nat) : (i.setFbW k).run = i.run := rfl
@[simp] theorem Instance.setFbW_n (i : Instance) (k : Nat) : (i.setFbW k).n = i.n := rfl
@[simp] theorem Instance.setFbW_fs (i : Instance) (k : Nat) : (i.setFbW k).fs = i.fs := rfl
@[simp] theorem Instance.setFbW_coef (i : Instance) (k : Nat) : (i.setFbW k).coef = i.coef := rfl
@[simp] theorem Instance.setFbW_chan (i : Instance) (k : Nat) : (i.setFbW k).chan = i.chan := rfl
@[simp] theorem Instance.setFbW_sMaster (i : Instance) (k : Nat) :
    (i.setFbW k).sMaster = i.sMaster := rfl
@[simp] theorem Instance.setFbW_fb (i : Instance) (k : Nat) : (i.setFbW k).fb = i.fb := rfl
@[simp] theorem Instance.setFbW_fbW (i : Instance) (k : Nat) : (i.setFbW k).fbW = k := rfl
@[simp] theorem Instance.setFbW_fbDelay (i : Instance) (k : Nat) :
    (i.setFbW k).fbDelay = i.fbDelay := rfl
@[simp] theorem Instance.setFbW_la (i : Instance) (k : Nat) : (i.setFbW k).la = i.la := rfl
@[simp] theorem Instance.setFbW_laW (i : Instance) (k : Nat) : (i.setFbW k).laW = i.laW := rfl
@[simp] theorem Instance.setFbW_laLen (i : Instance) (k : Nat) : (i.setFbW k).laLen = i.laLen := rfl
@[simp] theorem Instance.setFbW_env (i : Instance) (k : Nat) : (i.setFbW k).env = i.env := rfl
@[simp] theorem Instance.setFbW_gr (i : Instance) (k : Nat) : (i.setFbW k).gr = i.gr := rfl
@[simp] theorem Instance.setFbW_thr (i : Instance) (k : Nat) : (i.setFbW k).thr = i.thr := rfl
@[simp] theorem Instance.setFbW_raw (i : Instance) (k : Nat) : (i.setFbW k).raw = i.raw := rfl
@[simp] theorem Instance.setFbW_latched (i : Instance) (k : Nat) :
    (i.setFbW k).latched = i.latched := rfl

@[simp] theorem Instance.setFbDelay_run (i : Instance) (k : Nat) :
    (i.setFbDelay k).run = i.run := rfl
@[simp] theorem Instance.setFbDelay_n (i : Instance) (k : Nat) : (i.setFbDelay k).n = i.n := rfl
@[simp] theorem Instance.setFbDelay_fs (i : Instance) (k : Nat) : (i.setFbDelay k).fs = i.fs := rfl
@[simp] theorem Instance.setFbDelay_coef (i : Instance) (k : Nat) :
    (i.setFbDelay k).coef = i.coef := rfl
@[simp] theorem Instance.setFbDelay_chan (i : Instance) (k : Nat) :
    (i.setFbDelay k).chan = i.chan := rfl
@[simp] theorem Instance.setFbDelay_sMaster (i : Instance) (k : Nat) :
    (i.setFbDelay k).sMaster = i.sMaster := rfl
@[simp] theorem Instance.setFbDelay_fb (i : Instance) (k : Nat) : (i.setFbDelay k).fb = i.fb := rfl
@[simp] theorem Instance.setFbDelay_fbW (i : Instance) (k : Nat) :
    (i.setFbDelay k).fbW = i.fbW := rfl
@[simp] theorem Instance.setFbDelay_fbDelay (i : Instance) (k : Nat) :
    (i.setFbDelay k).fbDelay = k := rfl
@[simp] theorem Instance.setFbDelay_la (i : Instance) (k : Nat) : (i.setFbDelay k).la = i.la := rfl
@[simp] theorem Instance.setFbDelay_laW (i : Instance) (k : Nat) :
    (i.setFbDelay k).laW = i.laW := rfl
@[simp] theorem Instance.setFbDelay_laLen (i : Instance) (k : Nat) :
    (i.setFbDelay k).laLen = i.laLen := rfl
@[simp] theorem Instance.setFbDelay_env (i : Instance) (k : Nat) :
    (i.setFbDelay k).env = i.env := rfl
@[simp] theorem Instance.setFbDelay_gr (i : Instance) (k : Nat) : (i.setFbDelay k).gr = i.gr := rfl
@[simp] theorem Instance.setFbDelay_thr (i : Instance) (k : Nat) :
    (i.setFbDelay k).thr = i.thr := rfl
@[simp] theorem Instance.setFbDelay_raw (i : Instance) (k : Nat) :
    (i.setFbDelay k).raw = i.raw := rfl
@[simp] theorem Instance.setFbDelay_latched (i : Instance) (k : Nat) :
    (i.setFbDelay k).latched = i.latched := rfl

@[simp] theorem Instance.setLa_run (i : Instance) (m : Memory) : (i.setLa m).run = i.run := rfl
@[simp] theorem Instance.setLa_n (i : Instance) (m : Memory) : (i.setLa m).n = i.n := rfl
@[simp] theorem Instance.setLa_fs (i : Instance) (m : Memory) : (i.setLa m).fs = i.fs := rfl
@[simp] theorem Instance.setLa_coef (i : Instance) (m : Memory) : (i.setLa m).coef = i.coef := rfl
@[simp] theorem Instance.setLa_chan (i : Instance) (m : Memory) : (i.setLa m).chan = i.chan := rfl
@[simp] theorem Instance.setLa_sMaster (i : Instance) (m : Memory) :
    (i.setLa m).sMaster = i.sMaster := rfl
@[simp] theorem Instance.setLa_fb (i : Instance) (m : Memory) : (i.setLa m).fb = i.fb := rfl
@[simp] theorem Instance.setLa_fbW (i : Instance) (m : Memory) : (i.setLa m).fbW = i.fbW := rfl
@[simp] theorem Instance.setLa_fbDelay (i : Instance) (m : Memory) :
    (i.setLa m).fbDelay = i.fbDelay := rfl
@[simp] theorem Instance.setLa_la (i : Instance) (m : Memory) : (i.setLa m).la = m := rfl
@[simp] theorem Instance.setLa_laW (i : Instance) (m : Memory) : (i.setLa m).laW = i.laW := rfl
@[simp] theorem Instance.setLa_laLen (i : Instance) (m : Memory) :
    (i.setLa m).laLen = i.laLen := rfl
@[simp] theorem Instance.setLa_env (i : Instance) (m : Memory) : (i.setLa m).env = i.env := rfl
@[simp] theorem Instance.setLa_gr (i : Instance) (m : Memory) : (i.setLa m).gr = i.gr := rfl
@[simp] theorem Instance.setLa_thr (i : Instance) (m : Memory) : (i.setLa m).thr = i.thr := rfl
@[simp] theorem Instance.setLa_raw (i : Instance) (m : Memory) : (i.setLa m).raw = i.raw := rfl
@[simp] theorem Instance.setLa_latched (i : Instance) (m : Memory) :
    (i.setLa m).latched = i.latched := rfl

@[simp] theorem Instance.setLaW_run (i : Instance) (k : Nat) : (i.setLaW k).run = i.run := rfl
@[simp] theorem Instance.setLaW_n (i : Instance) (k : Nat) : (i.setLaW k).n = i.n := rfl
@[simp] theorem Instance.setLaW_fs (i : Instance) (k : Nat) : (i.setLaW k).fs = i.fs := rfl
@[simp] theorem Instance.setLaW_coef (i : Instance) (k : Nat) : (i.setLaW k).coef = i.coef := rfl
@[simp] theorem Instance.setLaW_chan (i : Instance) (k : Nat) : (i.setLaW k).chan = i.chan := rfl
@[simp] theorem Instance.setLaW_sMaster (i : Instance) (k : Nat) :
    (i.setLaW k).sMaster = i.sMaster := rfl
@[simp] theorem Instance.setLaW_fb (i : Instance) (k : Nat) : (i.setLaW k).fb = i.fb := rfl
@[simp] theorem Instance.setLaW_fbW (i : Instance) (k : Nat) : (i.setLaW k).fbW = i.fbW := rfl
@[simp] theorem Instance.setLaW_fbDelay (i : Instance) (k : Nat) :
    (i.setLaW k).fbDelay = i.fbDelay := rfl
@[simp] theorem Instance.setLaW_la (i : Instance) (k : Nat) : (i.setLaW k).la = i.la := rfl
@[simp] theorem Instance.setLaW_laW (i : Instance) (k : Nat) : (i.setLaW k).laW = k := rfl
@[simp] theorem Instance.setLaW_laLen (i : Instance) (k : Nat) : (i.setLaW k).laLen = i.laLen := rfl
@[simp] theorem Instance.setLaW_env (i : Instance) (k : Nat) : (i.setLaW k).env = i.env := rfl
@[simp] theorem Instance.setLaW_gr (i : Instance) (k : Nat) : (i.setLaW k).gr = i.gr := rfl
@[simp] theorem Instance.setLaW_thr (i : Instance) (k : Nat) : (i.setLaW k).thr = i.thr := rfl
@[simp] theorem Instance.setLaW_raw (i : Instance) (k : Nat) : (i.setLaW k).raw = i.raw := rfl
@[simp] theorem Instance.setLaW_latched (i : Instance) (k : Nat) :
    (i.setLaW k).latched = i.latched := rfl

@[simp] theorem Instance.setLaLen_run (i : Instance) (k : Nat) : (i.setLaLen k).run = i.run := rfl
@[simp] theorem Instance.setLaLen_n (i : Instance) (k : Nat) : (i.setLaLen k).n = i.n := rfl
@[simp] theorem Instance.setLaLen_fs (i : Instance) (k : Nat) : (i.setLaLen k).fs = i.fs := rfl
@[simp] theorem Instance.setLaLen_coef (i : Instance) (k : Nat) :
    (i.setLaLen k).coef = i.coef := rfl
@[simp] theorem Instance.setLaLen_chan (i : Instance) (k : Nat) :
    (i.setLaLen k).chan = i.chan := rfl
@[simp] theorem Instance.setLaLen_sMaster (i : Instance) (k : Nat) :
    (i.setLaLen k).sMaster = i.sMaster := rfl
@[simp] theorem Instance.setLaLen_fb (i : Instance) (k : Nat) : (i.setLaLen k).fb = i.fb := rfl
@[simp] theorem Instance.setLaLen_fbW (i : Instance) (k : Nat) : (i.setLaLen k).fbW = i.fbW := rfl
@[simp] theorem Instance.setLaLen_fbDelay (i : Instance) (k : Nat) :
    (i.setLaLen k).fbDelay = i.fbDelay := rfl
@[simp] theorem Instance.setLaLen_la (i : Instance) (k : Nat) : (i.setLaLen k).la = i.la := rfl
@[simp] theorem Instance.setLaLen_laW (i : Instance) (k : Nat) : (i.setLaLen k).laW = i.laW := rfl
@[simp] theorem Instance.setLaLen_laLen (i : Instance) (k : Nat) : (i.setLaLen k).laLen = k := rfl
@[simp] theorem Instance.setLaLen_env (i : Instance) (k : Nat) : (i.setLaLen k).env = i.env := rfl
@[simp] theorem Instance.setLaLen_gr (i : Instance) (k : Nat) : (i.setLaLen k).gr = i.gr := rfl
@[simp] theorem Instance.setLaLen_thr (i : Instance) (k : Nat) : (i.setLaLen k).thr = i.thr := rfl
@[simp] theorem Instance.setLaLen_raw (i : Instance) (k : Nat) : (i.setLaLen k).raw = i.raw := rfl
@[simp] theorem Instance.setLaLen_latched (i : Instance) (k : Nat) :
    (i.setLaLen k).latched = i.latched := rfl

@[simp] theorem Instance.setEnv_run (i : Instance) (v : NumVal) : (i.setEnv v).run = i.run := rfl
@[simp] theorem Instance.setEnv_n (i : Instance) (v : NumVal) : (i.setEnv v).n = i.n := rfl
@[simp] theorem Instance.setEnv_fs (i : Instance) (v : NumVal) : (i.setEnv v).fs = i.fs := rfl
@[simp] theorem Instance.setEnv_coef (i : Instance) (v : NumVal) : (i.setEnv v).coef = i.coef := rfl
@[simp] theorem Instance.setEnv_chan (i : Instance) (v : NumVal) : (i.setEnv v).chan = i.chan := rfl
@[simp] theorem Instance.setEnv_sMaster (i : Instance) (v : NumVal) :
    (i.setEnv v).sMaster = i.sMaster := rfl
@[simp] theorem Instance.setEnv_fb (i : Instance) (v : NumVal) : (i.setEnv v).fb = i.fb := rfl
@[simp] theorem Instance.setEnv_fbW (i : Instance) (v : NumVal) : (i.setEnv v).fbW = i.fbW := rfl
@[simp] theorem Instance.setEnv_fbDelay (i : Instance) (v : NumVal) :
    (i.setEnv v).fbDelay = i.fbDelay := rfl
@[simp] theorem Instance.setEnv_la (i : Instance) (v : NumVal) : (i.setEnv v).la = i.la := rfl
@[simp] theorem Instance.setEnv_laW (i : Instance) (v : NumVal) : (i.setEnv v).laW = i.laW := rfl
@[simp] theorem Instance.setEnv_laLen (i : Instance) (v : NumVal) :
    (i.setEnv v).laLen = i.laLen := rfl
@[simp] theorem Instance.setEnv_env (i : Instance) (v : NumVal) : (i.setEnv v).env = v := rfl
@[simp] theorem Instance.setEnv_gr (i : Instance) (v : NumVal) : (i.setEnv v).gr = i.gr := rfl
@[simp] theorem Instance.setEnv_thr (i : Instance) (v : NumVal) : (i.setEnv v).thr = i.thr := rfl
@[simp] theorem Instance.setEnv_raw (i : Instance) (v : NumVal) : (i.setEnv v).raw = i.raw := rfl
@[simp] theorem Instance.setEnv_latched (i : Instance) (v : NumVal) :
    (i.setEnv v).latched = i.latched := rfl

@[simp] theorem Instance.setGr_run (i : Instance) (v : NumVal) : (i.setGr v).run = i.run := rfl
@[simp] theorem Instance.setGr_n (i : Instance) (v : NumVal) : (i.setGr v).n = i.n := rfl
@[simp] theorem Instance.setGr_fs (i : Instance) (v : NumVal) : (i.setGr v).fs = i.fs := rfl
@[simp] theorem Instance.setGr_coef (i : Instance) (v : NumVal) : (i.setGr v).coef = i.coef := rfl
@[simp] theorem Instance.setGr_chan (i : Instance) (v : NumVal) : (i.setGr v).chan = i.chan := rfl
@[simp] theorem Instance.setGr_sMaster (i : Instance) (v : NumVal) :
    (i.setGr v).sMaster = i.sMaster := rfl
@[simp] theorem Instance.setGr_fb (i : Instance) (v : NumVal) : (i.setGr v).fb = i.fb := rfl
@[simp] theorem Instance.setGr_fbW (i : Instance) (v : NumVal) : (i.setGr v).fbW = i.fbW := rfl
@[simp] theorem Instance.setGr_fbDelay (i : Instance) (v : NumVal) :
    (i.setGr v).fbDelay = i.fbDelay := rfl
@[simp] theorem Instance.setGr_la (i : Instance) (v : NumVal) : (i.setGr v).la = i.la := rfl
@[simp] theorem Instance.setGr_laW (i : Instance) (v : NumVal) : (i.setGr v).laW = i.laW := rfl
@[simp] theorem Instance.setGr_laLen (i : Instance) (v : NumVal) :
    (i.setGr v).laLen = i.laLen := rfl
@[simp] theorem Instance.setGr_env (i : Instance) (v : NumVal) : (i.setGr v).env = i.env := rfl
@[simp] theorem Instance.setGr_gr (i : Instance) (v : NumVal) : (i.setGr v).gr = v := rfl
@[simp] theorem Instance.setGr_thr (i : Instance) (v : NumVal) : (i.setGr v).thr = i.thr := rfl
@[simp] theorem Instance.setGr_raw (i : Instance) (v : NumVal) : (i.setGr v).raw = i.raw := rfl
@[simp] theorem Instance.setGr_latched (i : Instance) (v : NumVal) :
    (i.setGr v).latched = i.latched := rfl

@[simp] theorem Instance.setRaw_run (i : Instance) (p : RawParams) : (i.setRaw p).run = i.run := rfl
@[simp] theorem Instance.setRaw_n (i : Instance) (p : RawParams) : (i.setRaw p).n = i.n := rfl
@[simp] theorem Instance.setRaw_fs (i : Instance) (p : RawParams) : (i.setRaw p).fs = i.fs := rfl
@[simp] theorem Instance.setRaw_coef (i : Instance) (p : RawParams) :
    (i.setRaw p).coef = i.coef := rfl
@[simp] theorem Instance.setRaw_chan (i : Instance) (p : RawParams) :
    (i.setRaw p).chan = i.chan := rfl
@[simp] theorem Instance.setRaw_sMaster (i : Instance) (p : RawParams) :
    (i.setRaw p).sMaster = i.sMaster := rfl
@[simp] theorem Instance.setRaw_fb (i : Instance) (p : RawParams) : (i.setRaw p).fb = i.fb := rfl
@[simp] theorem Instance.setRaw_fbW (i : Instance) (p : RawParams) : (i.setRaw p).fbW = i.fbW := rfl
@[simp] theorem Instance.setRaw_fbDelay (i : Instance) (p : RawParams) :
    (i.setRaw p).fbDelay = i.fbDelay := rfl
@[simp] theorem Instance.setRaw_la (i : Instance) (p : RawParams) : (i.setRaw p).la = i.la := rfl
@[simp] theorem Instance.setRaw_laW (i : Instance) (p : RawParams) : (i.setRaw p).laW = i.laW := rfl
@[simp] theorem Instance.setRaw_laLen (i : Instance) (p : RawParams) :
    (i.setRaw p).laLen = i.laLen := rfl
@[simp] theorem Instance.setRaw_env (i : Instance) (p : RawParams) : (i.setRaw p).env = i.env := rfl
@[simp] theorem Instance.setRaw_gr (i : Instance) (p : RawParams) : (i.setRaw p).gr = i.gr := rfl
@[simp] theorem Instance.setRaw_thr (i : Instance) (p : RawParams) : (i.setRaw p).thr = i.thr := rfl
@[simp] theorem Instance.setRaw_raw (i : Instance) (p : RawParams) : (i.setRaw p).raw = p := rfl
@[simp] theorem Instance.setRaw_latched (i : Instance) (p : RawParams) :
    (i.setRaw p).latched = i.latched := rfl

@[simp] theorem Instance.setLatch_run (i : Instance) (l : Latched) (t : NumVal) :
    (i.setLatch l t).run = i.run := rfl
@[simp] theorem Instance.setLatch_n (i : Instance) (l : Latched) (t : NumVal) :
    (i.setLatch l t).n = i.n := rfl
@[simp] theorem Instance.setLatch_fs (i : Instance) (l : Latched) (t : NumVal) :
    (i.setLatch l t).fs = i.fs := rfl
@[simp] theorem Instance.setLatch_coef (i : Instance) (l : Latched) (t : NumVal) :
    (i.setLatch l t).coef = i.coef := rfl
@[simp] theorem Instance.setLatch_chan (i : Instance) (l : Latched) (t : NumVal) :
    (i.setLatch l t).chan = i.chan := rfl
@[simp] theorem Instance.setLatch_sMaster (i : Instance) (l : Latched) (t : NumVal) :
    (i.setLatch l t).sMaster = i.sMaster := rfl
@[simp] theorem Instance.setLatch_fb (i : Instance) (l : Latched) (t : NumVal) :
    (i.setLatch l t).fb = i.fb := rfl
@[simp] theorem Instance.setLatch_fbW (i : Instance) (l : Latched) (t : NumVal) :
    (i.setLatch l t).fbW = i.fbW := rfl
@[simp] theorem Instance.setLatch_fbDelay (i : Instance) (l : Latched) (t : NumVal) :
    (i.setLatch l t).fbDelay = i.fbDelay := rfl
@[simp] theorem Instance.setLatch_la (i : Instance) (l : Latched) (t : NumVal) :
    (i.setLatch l t).la = i.la := rfl
@[simp] theorem Instance.setLatch_laW (i : Instance) (l : Latched) (t : NumVal) :
    (i.setLatch l t).laW = i.laW := rfl
@[simp] theorem Instance.setLatch_laLen (i : Instance) (l : Latched) (t : NumVal) :
    (i.setLatch l t).laLen = i.laLen := rfl
@[simp] theorem Instance.setLatch_env (i : Instance) (l : Latched) (t : NumVal) :
    (i.setLatch l t).env = i.env := rfl
@[simp] theorem Instance.setLatch_gr (i : Instance) (l : Latched) (t : NumVal) :
    (i.setLatch l t).gr = i.gr := rfl
@[simp] theorem Instance.setLatch_thr (i : Instance) (l : Latched) (t : NumVal) :
    (i.setLatch l t).thr = t := rfl
@[simp] theorem Instance.setLatch_raw (i : Instance) (l : Latched) (t : NumVal) :
    (i.setLatch l t).raw = i.raw := rfl
@[simp] theorem Instance.setLatch_latched (i : Instance) (l : Latched) (t : NumVal) :
    (i.setLatch l t).latched = l := rfl

end Sys2Proof.Machine
end

