-- ==== Sys2Proof/Laws/Ops.lean ====
section
/-! SUPPORT. For each shared operation, one lemma that says everything it does, so that a proof cites
it and does not unfold the operation. -/

namespace Sys2Proof.Machine

/-! ### Arithmetic -/

/-- `num(0)` is the construct word of every arithmetic. -/
@[simp] theorem arithOps_zero (a : Arith) : (arithOps a).ofInt 0 = zeroWord := by
  cases a
  · simp [arithOps, exactOps, zeroWord]
  · simp [arithOps, implOps]

@[simp] theorem exactLt_irrefl (a : NumVal) : exactLt a a = false := by
  cases a <;> simp [exactLt]

@[simp] theorem exactLt_rat (p q : Rat) : exactLt (.rat p) (.rat q) = decide (p < q) := rfl

@[simp] theorem exactAdd_zero_right (a : NumVal) : exactAdd a (.rat 0) = a := by
  cases a <;> simp [exactAdd]

@[simp] theorem exactAdd_zero_left (a : NumVal) : exactAdd (.rat 0) a = a := by
  cases a <;> simp [exactAdd]

@[simp] theorem exactMul_zero_right (a : NumVal) : exactMul a (.rat 0) = .rat 0 := by
  cases a <;> simp [exactMul]

@[simp] theorem exactMul_zero_left (a : NumVal) : exactMul (.rat 0) a = .rat 0 := by
  cases a <;> simp [exactMul]

@[simp] theorem exactMul_one_right (a : NumVal) : exactMul a (.rat 1) = a := by
  cases a <;> simp [exactMul]

@[simp] theorem exactSub_self (a : NumVal) : exactSub a a = .rat 0 := by
  cases a <;> simp [exactSub]

/-- The machine's exact order is the order of the real numbers. -/
theorem exactLt_iff (a b : NumVal) : exactLt a b = true ↔ realValue a < realValue b := by
  unfold exactLt
  split
  · simp [realValue]
  · split_ifs with h
    · simp [h]
    · exact @decide_eq_true_iff _ (realLtDecision a b)

theorem exactLe_iff (a b : NumVal) : exactLe a b = true ↔ realValue a ≤ realValue b := by
  simp only [exactLe, Bool.not_eq_true', ← Bool.not_eq_true, exactLt_iff, not_lt]

/-- All the open attack and release steps can become: themselves, in range, or both 1. -/
theorem attackRelease_cases (N : NumOps NumVal) (a r : NumVal) :
    (attackRelease N a r = (a, r) ∧ N.lt (N.ofInt 0) r = true ∧ N.le r a = true ∧
      N.le a (N.ofInt 1) = true) ∨ attackRelease N a r = (N.ofInt 1, N.ofInt 1) := by
  unfold attackRelease; split_ifs with h
  · simp only [Bool.and_eq_true] at h; exact .inl ⟨rfl, h.1.1, h.1.2, h.2⟩
  · exact .inr rfl

/-- All the open gain step can become: itself, in range, or 1. -/
theorem gainStep_cases (N : NumOps NumVal) (g : NumVal) :
    (gainStep N g = g ∧ N.lt (N.ofInt 0) g = true ∧ N.le g (N.ofInt 1) = true) ∨
      gainStep N g = N.ofInt 1 := by
  unfold gainStep; split_ifs with h
  · simp only [Bool.and_eq_true] at h; exact .inl ⟨rfl, h⟩
  · exact .inr rfl

theorem arithOps_exact {C : Cfg} (h : C.arith = .exactReals) : arithOps C.arith = exactOps := by
  rw [h]; rfl

/-! ### Operands -/

theorem clampi_mem {v lo hi : Int} (h : lo ≤ hi) : lo ≤ clampi v lo hi ∧ clampi v lo hi ≤ hi := by
  unfold clampi; split_ifs <;> omega

@[simp] theorem bank8_get {α : Type} (f : Fin 8 → α) (c : Fin 8) : (bank8 f)[c] = f c := by
  fin_cases c <;> rfl

@[simp] theorem bank8_getNat {α : Type} (f : Fin 8 → α) (c : Fin 8) : (bank8 f)[(c : Nat)] = f c :=
  bank8_get f c

theorem mem_channels {i : Instance} {c : Fin 8} : c ∈ channels i ↔ (c : Nat) < i.n := by
  simp only [channels, List.mem_take_iff_getElem, List.getElem_finRange, List.length_finRange]
  constructor
  · rintro ⟨k, hk, rfl⟩; simp at hk ⊢; omega
  · intro h; exact ⟨c, by have := c.isLt; omega, rfl⟩

theorem channels_nodup (i : Instance) : (channels i).Nodup :=
  (List.nodup_finRange 8).sublist (List.take_sublist _ _)

theorem channelOf_some {i : Instance} {c : ChField} {k : Fin 8} (hc : c.toNat = k) (hk : k < i.n) :
    channelOf i c = some k := by
  have h : c.toNat < 8 := by have := k.isLt; omega
  have h' : c.toNat < i.n := by omega
  simp only [channelOf, h, h', dif_pos, if_true]
  exact congrArg some (Fin.ext hc)

theorem channelOf_none {i : Instance} {c : ChField} (h : i.n ≤ c.toNat) : channelOf i c = none := by
  simp [channelOf, Nat.not_lt.mpr h]

/-! ### Commands -/

@[simp] theorem whenRunning_run {s : State} {f : State → State} (h : s.inst.run = true) :
    whenRunning s f = .next (f s) := by simp [whenRunning, h]

@[simp] theorem whenRunning_idle {s : State} {f : State → State} (h : s.inst.run = false) :
    whenRunning s f = .next s := by simp [whenRunning, ignored, h]

/-- All a command that needs an instance can do. -/
theorem whenRunning_cases (s : State) (f : State → State) :
    (s.inst.run = true ∧ whenRunning s f = .next (f s)) ∨
    (s.inst.run = false ∧ whenRunning s f = .next s) := by
  cases h : s.inst.run <;> simp [h]

/-- All a per-channel write can do: store on a channel the instance has, or nothing. -/
theorem storeChannel_cases (s : State) (c : ChField) (f : ChanRaw → ChanRaw) :
    (∃ k : Fin 8, s.inst.run = true ∧ channelOf s.inst c = some k ∧
      storeChannel s c f =
        .next (storeGlobal s fun p => { p with chan := p.chan.set k (f p.chan[k]) })) ∨
    storeChannel s c f = .next s := by
  cases h : s.inst.run with
  | false => exact .inr (by simp [storeChannel, h])
  | true =>
    cases hc : channelOf s.inst c with
    | none => exact .inr (by simp [storeChannel, h, hc])
    | some k => exact .inl ⟨k, rfl, rfl, by simp [storeChannel, h, hc]⟩

theorem rateCoef_of_ne {s : State} (h : s.hostFs ≠ 0) :
    rateCoef s = (coefOf s.cfg s.hostFs, s.free) := if_neg h

theorem lengthCount_of_ne {s : State} {v : Raw} (h : s.inst.fs ≠ 0) :
    lengthCount s v = (ms2samp (signed v) s.inst.fs.toNat, s.free) := if_neg h

/-- Everything `RECOMPUTE` does. -/
theorem recompute_eq (s : State) : recompute s =
    { s with inst := { s.inst with fs := s.hostFs, coef := (rateCoef s).1 }, free := (rateCoef s).2 } :=
  rfl

/-- Everything hardware reset does outside the instance, and to `S.run`. -/
theorem hardwareReset_fields (s : State) : (hardwareReset s).inst.run = false ∧
    Memory.wf (hardwareReset s).inst.fb = true ∧ Memory.wf (hardwareReset s).inst.la = true ∧
    (hardwareReset s).bus = s.bus ∧ (hardwareReset s).hostFs = s.hostFs ∧
    (hardwareReset s).cfg = s.cfg ∧ (hardwareReset s).port = s.port :=
  ⟨rfl, memOfWrites_wf _, memOfWrites_wf _, rfl, rfl, rfl, rfl⟩

/-! ### Each command over its shared operation -/

theorem exec_wrpOutL (v : Raw) (s : State) : exec (.wrpOutL v) s =
    whenRunning s fun s => storeGlobal s fun p => { p with outL := v } := rfl
theorem exec_wrpOutR (v : Raw) (s : State) : exec (.wrpOutR v) s =
    whenRunning s fun s => storeGlobal s fun p => { p with outR := v } := rfl
theorem exec_wrpOutMode (v : Raw) (s : State) : exec (.wrpOutMode v) s =
    whenRunning s fun s => storeGlobal s fun p => { p with outMode := v } := rfl
theorem exec_wrpMaster (v : Raw) (s : State) : exec (.wrpMaster v) s =
    whenRunning s fun s => storeGlobal s fun p => { p with master := v } := rfl
theorem exec_wrpSat (v : Raw) (s : State) : exec (.wrpSat v) s =
    whenRunning s fun s => storeGlobal s fun p => { p with sat := v } := rfl
theorem exec_wrpSquash (v : Raw) (s : State) : exec (.wrpSquash v) s =
    whenRunning s fun s => storeGlobal s fun p => { p with squash := v } := rfl
theorem exec_wrpLookahead (v : Raw) (s : State) :
    exec (.wrpLookahead v) s = whenRunning s (setLookahead v) := rfl
theorem exec_wrpFbDelay (v : Raw) (s : State) :
    exec (.wrpFbDelay v) s = whenRunning s (setFeedbackDelay v) := rfl
theorem exec_wrpInBus (c : ChField) (v : Raw) (s : State) :
    exec (.wrpInBus c v) s = storeChannel s c fun p => { p with inBus := v } := rfl
theorem exec_wrpFb (c : ChField) (v : Raw) (s : State) :
    exec (.wrpFb c v) s = storeChannel s c fun p => { p with fb := v } := rfl
theorem exec_wrpFbCvBus (c : ChField) (v : Raw) (s : State) :
    exec (.wrpFbCvBus c v) s = storeChannel s c fun p => { p with fbCvBus := v } := rfl
theorem exec_wrpFbCvDepth (c : ChField) (v : Raw) (s : State) :
    exec (.wrpFbCvDepth c v) s = storeChannel s c fun p => { p with fbCvDepth := v } := rfl
theorem exec_wrpPan (c : ChField) (v : Raw) (s : State) :
    exec (.wrpPan c v) s = storeChannel s c fun p => { p with pan := v } := rfl
theorem exec_wrpPanCvBus (c : ChField) (v : Raw) (s : State) :
    exec (.wrpPanCvBus c v) s = storeChannel s c fun p => { p with panCvBus := v } := rfl
theorem exec_wrpPanCvDepth (c : ChField) (v : Raw) (s : State) :
    exec (.wrpPanCvDepth c v) s = storeChannel s c fun p => { p with panCvDepth := v } := rfl
theorem exec_blkstart (s : State) :
    exec .blkstart s = whenRunning s fun s => s.setInst (latch s.cfg s.inst) := rfl
theorem exec_frame (s : State) : exec .frame s = whenRunning s processFrame := rfl

/-! ### The frame -/

/-- The registers of channel `c` after its turn, from those before it. -/
def channelRegs (C : Cfg) (c : Fin 8) (i : Instance) : ChanRun :=
  let N := arithOps C.arith
  { sFb := smooth N i.coef.cS i.chan[c].sFb i.latched.chan[c].tFb
    sPan := smooth N i.coef.cS i.chan[c].sPan i.latched.chan[c].tPan
    dcX1 := fbTap C c i
    dcY1 := dcOut N i.coef.cR i.chan[c].dcX1 i.chan[c].dcY1 (fbTap C c i) }

/-- The signal of channel `c` in its turn: what its lane is given and what is panned. -/
def channelWord (C : Cfg) (bus : Memory) (c : Fin 8) (i : Instance) : NumVal :=
  let N := arithOps C.arith
  let sFb := smooth N i.coef.cS i.chan[c].sFb i.latched.chan[c].tFb
  fbSum N (input C bus c i)
    (dcOut N i.coef.cR i.chan[c].dcX1 i.chan[c].dcY1 (fbTap C c i))
    (if busValid C i.latched.chan[c].fbCvBus then
      cvFbBlend N sFb i.latched.chan[c].dFb (memRead bus i.latched.chan[c].fbCvBus.toNat)
    else sFb)

/-- The gains of channel `c` in its turn. -/
def channelGains (C : Cfg) (bus : Memory) (c : Fin 8) (i : Instance) : NumVal × NumVal :=
  let N := arithOps C.arith
  let sPan := smooth N i.coef.cS i.chan[c].sPan i.latched.chan[c].tPan
  pan N (if busValid C i.latched.chan[c].panCvBus then
      cvPanSum N sPan i.latched.chan[c].dPan (memRead bus i.latched.chan[c].panCvBus.toNat)
    else sPan)

/-- Everything `CHANNEL(c)` does: the registers of channel `c`, one ring word, and its two sides. -/
theorem channel_eq (C : Cfg) (bus : Memory) (c : Fin 8) (i : Instance) :
    channel C bus c i =
      { inst := { i with
          chan := i.chan.set c (channelRegs C c i)
          fb := memWrite i.fb (fbAddr i i.fbW c) (channelWord C bus c i) }
        l := (arithOps C.arith).mul (channelWord C bus c i) (channelGains C bus c i).1
        r := (arithOps C.arith).mul (channelWord C bus c i) (channelGains C bus c i).2 } := by
  simp [channel, channelRegs, channelWord, channelGains, smoothFb, smoothPan, dcBlock, fbWrite, cvFb,
    cvPan, input, fbTap, fbAddr, Instance.setChan, Instance.setFb, Vector.set_set]

/-- What one turn reads of the instance: the registers of its own channel, and one word of its own
lane. -/
theorem channelWord_congr {C : Cfg} {bus : Memory} {c : Fin 8} {i j : Instance}
    (hc : j.chan[c] = i.chan[c]) (hk : j.coef = i.coef) (hl : j.latched = i.latched)
    (ht : fbTap C c j = fbTap C c i) :
    channelRegs C c j = channelRegs C c i ∧ channelWord C bus c j = channelWord C bus c i ∧
      channelGains C bus c j = channelGains C bus c i := by
  simp [channelRegs, channelWord, channelGains, input, hc, hk, hl, ht]

/-- Everything `LIMIT` does to the instance. -/
theorem limit_inst (C : Cfg) (a : Stereo) :
    (limit C a).inst =
      let N := arithOps C.arith
      let env := envNext N a.inst.coef a.inst.env (peakOf N a.l a.r)
      { a.inst with
        la := memWrite (memWrite a.inst.la (laAddr a.inst.laW 0) a.l) (laAddr a.inst.laW 1) a.r
        env := env
        gr := gainNext N a.inst.coef a.inst.gr (gainTarget N env a.inst.thr)
        laW := ringNext C.laBufSize a.inst.laW } := rfl

/-- Everything `FRAME` does on a running instance. -/
theorem execFrame_eq {s : State} (h : s.inst.run = true) :
    exec .frame s = .next (processFrame s) := whenRunning_run h

/-- Nothing but the instance and the bus is touched by a frame. -/
theorem processFrame_host (s : State) : (processFrame s).hostFs = s.hostFs ∧
    (processFrame s).cfg = s.cfg ∧ (processFrame s).port = s.port ∧ (processFrame s).free = s.free :=
  ⟨rfl, rfl, rfl, rfl⟩

/-! ### The step -/

theorem step_idle {s : State} (h : s.port = []) : step s = .next s := by simp [step, h]

theorem step_move {s : State} {m : HostMove} {rest : List HostMove} (h : s.port = m :: rest) :
    step s = hostMove m (s.setPort rest) := by simp [step, h]

theorem acceptWord_command {s : State} {w : Word} {i : Instr} (h : decode w = .command i) :
    acceptWord s w = exec i s := by simp [acceptWord, h]

theorem acceptWord_reserved {s : State} {w : Word} {why : Reserved} (h : decode w = .reserved why) :
    acceptWord s w = .next s := by simp [acceptWord, ignored, h]

end Sys2Proof.Machine
end

