-- ==== Sys2Proof/Laws/Frame.lean ====
section
/-! SUPPORT. What the channel loop of a frame does, by induction over the channels: each turn works on
its own registers and its own lane, so it sees what was there before the loop. -/

namespace Sys2Proof.Machine

/-- Two lanes of any two slots never share a word. -/
theorem lane_ne {n a b c d : Nat} (hc : c < n) (hd : d < n) (h : c ≠ d) : a * n + c ≠ b * n + d := by
  intro e
  have h1 : (a * n + c) % n = c := by rw [Nat.mul_comm, Nat.mul_add_mod, Nat.mod_eq_of_lt hc]
  have h2 : (b * n + d) % n = d := by rw [Nat.mul_comm, Nat.mul_add_mod, Nat.mod_eq_of_lt hd]
  exact h (by rw [← h1, ← h2, e])

/-- Two different slots never share a word. -/
theorem slot_ne {n a b c d : Nat} (hc : c < n) (hd : d < n) (h : a ≠ b) : a * n + c ≠ b * n + d := by
  intro e
  have hn : 0 < n := by omega
  have h1 : (a * n + c) / n = a := by
    rw [Nat.mul_comm, Nat.mul_add_div hn, Nat.div_eq_of_lt hc, Nat.add_zero]
  have h2 : (b * n + d) / n = b := by
    rw [Nat.mul_comm, Nat.mul_add_div hn, Nat.div_eq_of_lt hd, Nat.add_zero]
  exact h (by rw [← h1, ← h2, e])

/-- What the loop over a list of channels has done to the instance it began with. -/
structure LoopDone (C : Cfg) (bus : Memory) (l : List (Fin 8)) (i j : Instance) : Prop where
  rest : j = { i with chan := j.chan, fb := j.fb }
  done : ∀ c ∈ l, j.chan[c] = channelRegs C c i
  kept : ∀ c, c ∉ l → j.chan[c] = i.chan[c]
  words : ∀ a, (∀ c ∈ l, a ≠ fbAddr i i.fbW c) → memRead j.fb a = memRead i.fb a
  wf : Memory.wf i.fb = true → Memory.wf j.fb = true
  lanes : Memory.wf i.fb = true → ∀ c ∈ l, memRead j.fb (fbAddr i i.fbW c) = channelWord C bus c i
  addrs : ∀ p ∈ j.fb, p ∈ i.fb ∨ ∃ c ∈ l, p.1 = fbAddr i i.fbW c

/-- The loop over distinct channels of the instance: every turn sees its own channel as it was before
the loop, and the mix is the ascending sum of what they make of it. -/
theorem mixLoop_spec (C : Cfg) (bus : Memory) (l : List (Fin 8)) (i : Instance) (x y : NumVal)
    (hn : ∀ c ∈ l, (c : Nat) < i.n) (hd : l.Nodup) :
    LoopDone C bus l i (l.foldl (mixChannel C bus) ⟨i, x, y⟩).inst ∧
    ((l.foldl (mixChannel C bus) ⟨i, x, y⟩).l, (l.foldl (mixChannel C bus) ⟨i, x, y⟩).r) =
      l.foldl (fun (a : NumVal × NumVal) c => ((arithOps C.arith).add a.1 (channel C bus c i).l,
        (arithOps C.arith).add a.2 (channel C bus c i).r)) (x, y) := by
  induction l using List.reverseRecOn with
  | nil => exact ⟨⟨rfl, by simp, by simp, by simp, id, by simp, fun p hp => .inl hp⟩, rfl⟩
  | append_singleton l c ih =>
    have hdl : l.Nodup := (List.nodup_append.mp hd).1
    have hcl : c ∉ l := fun h => by
      have := List.nodup_append.mp hd
      exact this.2.2 c h c (by simp) rfl
    have hcn : (c : Nat) < i.n := hn c (by simp)
    have hln : ∀ d ∈ l, (d : Nat) < i.n := fun d hd => hn d (by simp [hd])
    obtain ⟨H, hmix⟩ := ih hln hdl
    rw [List.foldl_append, List.foldl_append]
    generalize hj : l.foldl (mixChannel C bus) ⟨i, x, y⟩ = r at H hmix
    obtain ⟨j, rl, rr⟩ := r
    simp only at H hmix
    have hjn : j.n = i.n := by rw [H.rest]
    have hjW : j.fbW = i.fbW := by rw [H.rest]
    have hjD : j.fbDelay = i.fbDelay := by rw [H.rest]
    have hjk : j.coef = i.coef := by rw [H.rest]
    have hjl : j.latched = i.latched := by rw [H.rest]
    have hne : ∀ (s : Nat), ∀ d ∈ l, fbAddr i s c ≠ fbAddr i i.fbW d := fun s d hd' =>
      lane_ne hcn (hln d hd') fun e => hcl (Fin.ext e ▸ hd')
    have htap : fbTap C c j = fbTap C c i := by
      simp only [fbTap, hjW, hjD, fbAddr, hjn]
      exact H.words _ (hne _)
    obtain ⟨hR, hW, hG⟩ := channelWord_congr (bus := bus) (H.kept c hcl) hjk hjl htap
    have haddr : fbAddr j j.fbW c = fbAddr i i.fbW c := by simp only [fbAddr, hjW, hjn]
    have hch : channel C bus c j =
        { inst := { j with
            chan := j.chan.set c (channelRegs C c i)
            fb := memWrite j.fb (fbAddr i i.fbW c) (channelWord C bus c i) }
          l := (channel C bus c i).l, r := (channel C bus c i).r } := by
      rw [channel_eq C bus c j, channel_eq C bus c i, hR, hW, hG, haddr]
    simp only [List.foldl_cons, List.foldl_nil, mixChannel, hch, ← hmix]
    refine ⟨⟨?_, ?_, ?_, ?_, ?_, ?_, ?_⟩, trivial⟩
    · rw [H.rest]
    · intro d hd'
      rcases List.mem_append.mp hd' with h | h
      · have : c ≠ d := fun e => hcl (e ▸ h)
        have : (c : Nat) ≠ d := fun e => this (Fin.ext e)
        simp [this]
        exact H.done d h
      · simp only [List.mem_singleton] at h
        subst h; simp
    · intro d hd'
      have : c ≠ d := fun e => hd' (by simp [e])
      have : (c : Nat) ≠ d := fun e => this (Fin.ext e)
      simp [this]
      exact H.kept d fun h => hd' (by simp [h])
    · intro a ha
      rw [memRead_memWrite_other _ _ (ha c (by simp))]
      exact H.words a fun d hd' => ha d (by simp [hd'])
    · intro h; exact memWrite_wf _ _ (H.wf h)
    · intro h d hd'
      rcases List.mem_append.mp hd' with h' | h'
      · rw [memRead_memWrite_other _ _ (hne _ d h').symm]
        exact H.lanes h d h'
      · simp only [List.mem_singleton] at h'
        subst h'; exact memRead_memWrite_same _ _ (H.wf h)
    · intro p hp
      rcases mem_memWrite hp with h | h
      · exact .inr ⟨c, by simp, h⟩
      · rcases H.addrs p h with h | ⟨d, hd', h⟩
        · exact .inl h
        · exact .inr ⟨d, by simp [hd'], h⟩

/-- The channel loop of a frame. -/
theorem mixChannels_spec (C : Cfg) (bus : Memory) (i : Instance) :
    LoopDone C bus (channels i) i (mixChannels C bus i).inst ∧
    ((mixChannels C bus i).l, (mixChannels C bus i).r) =
      (channels i).foldl (fun (a : NumVal × NumVal) c =>
        ((arithOps C.arith).add a.1 (channel C bus c i).l,
          (arithOps C.arith).add a.2 (channel C bus c i).r))
        ((arithOps C.arith).ofInt 0, (arithOps C.arith).ofInt 0) :=
  mixLoop_spec C bus (channels i) i _ _ (fun _ => mem_channels.mp) (channels_nodup i)

/-- Everything a frame does to the instance, after its channel loop. -/
theorem processFrame_inst (s : State) :
    (processFrame s).inst =
      let j := (mixChannels s.cfg s.bus s.inst).inst
      let p := preLimit s.cfg s.bus s.inst
      let N := arithOps s.cfg.arith
      let env := envNext N j.coef j.env (peakOf N p.l p.r)
      { j with
        sMaster := smooth N j.coef.cS j.sMaster j.latched.tMaster
        fbW := ringNext s.cfg.fbBufSize j.fbW
        la := memWrite (memWrite j.la (laAddr j.laW 0) p.l) (laAddr j.laW 1) p.r
        env := env
        gr := gainNext N j.coef j.gr (gainTarget N env j.thr)
        laW := ringNext s.cfg.laBufSize j.laW } := by
  simp only [processFrame, State.setBus_inst, State.setInst_inst, limit_inst]
  simp only [preLimit, fbAdv, applyMaster, smoothMaster, Instance.setFbW, Instance.setMaster]

end Sys2Proof.Machine
end

