-- ==== Sys2Proof/Laws/PerInstr.lean ====
section
/-! SUPPORT. The word of each command against its row of the opcode table, one lemma for each
constructor; and the fields of a composed word. -/

namespace Sys2Proof

/-! ### The fields of a composed word -/

@[simp] theorem opField_commandWord (op : BitVec 4) (ch : ChField) (pid : BitVec 8) (imm : Raw) :
    opField (commandWord op ch pid imm) = op := by
  simp only [opField, commandWord]
  apply BitVec.eq_of_getLsbD_eq
  intro i hi
  rw [BitVec.getLsbD_extractLsb']
  simp only [hi, decide_true, Bool.true_and, BitVec.getLsbD_append]
  interval_cases i <;> rfl

@[simp] theorem chField_commandWord (op : BitVec 4) (ch : ChField) (pid : BitVec 8) (imm : Raw) :
    chField (commandWord op ch pid imm) = ch := by
  simp only [chField, commandWord]
  apply BitVec.eq_of_getLsbD_eq
  intro i hi
  rw [BitVec.getLsbD_extractLsb']
  simp only [hi, decide_true, Bool.true_and, BitVec.getLsbD_append]
  interval_cases i <;> rfl

@[simp] theorem pidField_commandWord (op : BitVec 4) (ch : ChField) (pid : BitVec 8) (imm : Raw) :
    pidField (commandWord op ch pid imm) = pid := by
  simp only [pidField, commandWord]
  apply BitVec.eq_of_getLsbD_eq
  intro i hi
  rw [BitVec.getLsbD_extractLsb']
  simp only [hi, decide_true, Bool.true_and, BitVec.getLsbD_append]
  interval_cases i <;> rfl

@[simp] theorem immField_commandWord (op : BitVec 4) (ch : ChField) (pid : BitVec 8) (imm : Raw) :
    immField (commandWord op ch pid imm) = imm := by
  simp only [immField, commandWord]
  apply BitVec.eq_of_getLsbD_eq
  intro i hi
  rw [BitVec.getLsbD_extractLsb']
  simp only [hi, decide_true, Bool.true_and, BitVec.getLsbD_append]
  interval_cases i <;> rfl

/-- A word is composed of its four fields. -/
theorem commandWord_fields (w : Word) :
    commandWord (opField w) (chField w) (pidField w) (immField w) = w := by
  simp only [opField, chField, pidField, immField, commandWord]
  apply BitVec.eq_of_getLsbD_eq
  intro i hi
  simp only [BitVec.getLsbD_append, BitVec.getLsbD_extractLsb']
  interval_cases i <;> simp

namespace Laws.TableRow

/-- The fields `op` and `pid` of a command's row in spec/opcode_table.json. -/
def rowNumbers : Instr → Nat × Nat
  | .nop => (0, 0x00)
  | .construct _ => (1, 0x00)
  | .wrpOutL _ => (2, 0x00)
  | .wrpOutR _ => (2, 0x01)
  | .wrpOutMode _ => (2, 0x02)
  | .wrpMaster _ => (2, 0x03)
  | .wrpSat _ => (2, 0x04)
  | .wrpSquash _ => (2, 0x05)
  | .wrpLookahead _ => (2, 0x06)
  | .wrpFbDelay _ => (2, 0x07)
  | .wrpInBus _ _ => (2, 0x10)
  | .wrpFb _ _ => (2, 0x11)
  | .wrpFbCvBus _ _ => (2, 0x12)
  | .wrpFbCvDepth _ _ => (2, 0x13)
  | .wrpPan _ _ => (2, 0x14)
  | .wrpPanCvBus _ _ => (2, 0x15)
  | .wrpPanCvDepth _ _ => (2, 0x16)
  | .blkstart => (3, 0x00)
  | .frame => (4, 0x00)

/-- The immediate a command carries; 0 where its row has none. -/
def rowImm : Instr → Raw
  | .nop | .blkstart | .frame => 0
  | .construct v | .wrpOutL v | .wrpOutR v | .wrpOutMode v | .wrpMaster v | .wrpSat v => v
  | .wrpSquash v | .wrpLookahead v | .wrpFbDelay v => v
  | .wrpInBus _ v | .wrpFb _ v | .wrpFbCvBus _ v | .wrpFbCvDepth _ v => v
  | .wrpPan _ v | .wrpPanCvBus _ v | .wrpPanCvDepth _ v => v

/-- A command's word has the four fields of its row. -/
def Statement (i : Instr) : Prop :=
  (opField (encode i)).toNat = (rowNumbers i).1 ∧ (pidField (encode i)).toNat = (rowNumbers i).2 ∧
    chField (encode i) = i.channel ∧ immField (encode i) = rowImm i

theorem of_word {i : Instr} {op : BitVec 4} {ch : ChField} {pid : BitVec 8} {imm : Raw}
    (h : encode i = commandWord op ch pid imm) (hop : op.toNat = (rowNumbers i).1)
    (hpid : pid.toNat = (rowNumbers i).2) (hch : ch = i.channel) (himm : imm = rowImm i) :
    Statement i := by
  simp only [Statement, h, opField_commandWord, chField_commandWord, pidField_commandWord,
    immField_commandWord]
  exact ⟨hop, hpid, hch, himm⟩

theorem nop : Statement .nop :=
  of_word rfl rfl rfl rfl rfl

theorem construct (v : Raw) : Statement (.construct v) :=
  of_word rfl rfl rfl rfl rfl

theorem wrpOutL (v : Raw) : Statement (.wrpOutL v) :=
  of_word rfl rfl rfl rfl rfl

theorem wrpOutR (v : Raw) : Statement (.wrpOutR v) :=
  of_word rfl rfl rfl rfl rfl

theorem wrpOutMode (v : Raw) : Statement (.wrpOutMode v) :=
  of_word rfl rfl rfl rfl rfl

theorem wrpMaster (v : Raw) : Statement (.wrpMaster v) :=
  of_word rfl rfl rfl rfl rfl

theorem wrpSat (v : Raw) : Statement (.wrpSat v) :=
  of_word rfl rfl rfl rfl rfl

theorem wrpSquash (v : Raw) : Statement (.wrpSquash v) :=
  of_word rfl rfl rfl rfl rfl

theorem wrpLookahead (v : Raw) : Statement (.wrpLookahead v) :=
  of_word rfl rfl rfl rfl rfl

theorem wrpFbDelay (v : Raw) : Statement (.wrpFbDelay v) :=
  of_word rfl rfl rfl rfl rfl

theorem wrpInBus (c : ChField) (v : Raw) : Statement (.wrpInBus c v) :=
  of_word rfl rfl rfl rfl rfl

theorem wrpFb (c : ChField) (v : Raw) : Statement (.wrpFb c v) :=
  of_word rfl rfl rfl rfl rfl

theorem wrpFbCvBus (c : ChField) (v : Raw) : Statement (.wrpFbCvBus c v) :=
  of_word rfl rfl rfl rfl rfl

theorem wrpFbCvDepth (c : ChField) (v : Raw) : Statement (.wrpFbCvDepth c v) :=
  of_word rfl rfl rfl rfl rfl

theorem wrpPan (c : ChField) (v : Raw) : Statement (.wrpPan c v) :=
  of_word rfl rfl rfl rfl rfl

theorem wrpPanCvBus (c : ChField) (v : Raw) : Statement (.wrpPanCvBus c v) :=
  of_word rfl rfl rfl rfl rfl

theorem wrpPanCvDepth (c : ChField) (v : Raw) : Statement (.wrpPanCvDepth c v) :=
  of_word rfl rfl rfl rfl rfl

theorem blkstart : Statement .blkstart :=
  of_word rfl rfl rfl rfl rfl

theorem frame : Statement .frame :=
  of_word rfl rfl rfl rfl rfl

end Laws.TableRow

end Sys2Proof
end

