-- ==== Sys2Proof/Tests/Slice0.lean ====
section
/-! SUPPORT. Tests of the model's own, and a witness for the premises of each statement. Expected values
come from spec/95_test_vectors.md or from a rule by hand; the source is named beside each test. -/

namespace Sys2Proof.Tests

-- One test after the other: each waits for the kernel, and many waiting at once want a thread each.
set_option Elab.async false

open Sys2Proof Sys2Proof.Machine

/-! ### Small states -/

/-- The configuration TESTCFG of 95_test_vectors.md section 0, at its one rate. -/
def testCfg : Cfg :=
  ⟨.exactReals, 4, 4, 4, .rat 8, .rat 2,
    [(10000, ⟨.rat (1 / 2), .rat 1, .rat (1 / 2), .rat (1 / 4), .rat (1 / 2)⟩)]⟩

/-- No instance yet, the rate driven. -/
def idle : State := { State.reset with cfg := testCfg, hostFs := 10000 }

/-- The state a command leaves. -/
def after (i : Instr) (s : State) : State :=
  match exec i s with
  | .next t => t
  | .fault _ => s
  | .refused _ => s

/-- The state a step leaves. -/
def stepped (s : State) : State :=
  match step s with
  | .next t => t
  | .fault _ => s
  | .refused _ => s

/-- An instance of two channels at its construct values. -/
def fresh : State := after (.construct 2) idle

/-- Raw parameters of the program P1, latched. -/
def wired : State :=
  let p := fresh.inst.raw
  let c0 : ChanRaw := { p.chan[0] with inBus := 1, pan := -100 }
  let c1 : ChanRaw := { p.chan[1] with inBus := 2, pan := 100 }
  after .blkstart (fresh.setInst (fresh.inst.setRaw
    { p with outL := 3, outR := 4, outMode := 1, master := 50, chan := (p.chan.set 0 c0).set 1 c1 }))

/-- P1 before its second frame, from the table of its first. -/
def beforeSecond : State :=
  { wired with
    inst := { wired.inst with
      chan := (wired.inst.chan.set 0 ⟨.rat 0, .rat (-100), .rat 0, .rat 0⟩).set 1
        ⟨.rat 0, .rat 100, .rat 0, .rat 0⟩
      sMaster := .rat (1 / 2)
      fb := [(0, .rat 1), (1, .rat (1 / 2))]
      fbW := 1
      la := [(0, .rat (1 / 2)), (1, .rat (1 / 4))]
      laW := 1
      env := .rat (1 / 4) }
    bus := [(1, .rat 1), (2, .rat (1 / 2))] }

/-! ### Well-formedness -/

/-- R95: a channel above 7 has no encoding; 7 has one. This is the one check of WellFormed. -/
theorem test_channel_above_seven_is_ill_formed :
    wellFormed (.wrpPan 8 0) = false ∧ wellFormed (.wrpInBus 15 1) = false ∧
      wellFormed (.wrpPan 7 0) = true := by decide

/-- `cfgWf` refuses each clause of R11. -/
theorem test_ill_formed_configurations :
    cfgWf testCfg = true ∧ cfgWf { testCfg with fbBufSize := 1 } = false ∧
      cfgWf { testCfg with laBufSize := 0 } = false ∧ cfgWf { testCfg with nb := 0 } = false ∧
      cfgWf { testCfg with nb := 32768 } = false ∧ cfgWf { testCfg with vMin := .rat 0 } = false ∧
      cfgWf { testCfg with vMax := .rat 1 } = false := by decide +kernel

/-- R10's rows for the lengths: 200 tenths of a millisecond at 96000 Hz are the 1920 slots of both rings. -/
theorem test_default_sizes : Config.cfg.fbBufSize = 1920 ∧ Config.cfg.laBufSize = 1920 ∧
    ms2samp Config.maxMsRaw Config.maxFs = 1920 ∧ ms2samp Config.minMsRaw 48000 = 24 := by decide

theorem test_boot_refuses : State.boot { testCfg with nb := 0 } = .refused .illFormedConfig := rfl

/-! ### Decoding, from 95_test_vectors.md sections 2.1 and 3 and the tables of 30_encoding.md -/

theorem test_decode_nop : decode 0x00000000 = .command (.nop) := by decide
theorem test_decode_construct : decode 0x10008000 = .command (.construct (-32768)) := by decide
theorem test_decode_wrpOutL : decode 0x20000003 = .command (.wrpOutL 3) := by decide
theorem test_decode_wrpOutR : decode 0x20010004 = .command (.wrpOutR 4) := by decide
theorem test_decode_wrpOutMode : decode 0x20020001 = .command (.wrpOutMode 1) := by decide
theorem test_decode_wrpMaster : decode 0x200300FA = .command (.wrpMaster 250) := by decide
theorem test_decode_wrpSat : decode 0x20040002 = .command (.wrpSat 2) := by decide
theorem test_decode_wrpSquash : decode 0x20050064 = .command (.wrpSquash 100) := by decide
theorem test_decode_wrpLookahead : decode 0x20068000 = .command (.wrpLookahead (-32768)) := by decide
theorem test_decode_wrpFbDelay : decode 0x20070002 = .command (.wrpFbDelay 2) := by decide
theorem test_decode_wrpInBus : decode 0x2710FFFF = .command (.wrpInBus 7 (-1)) := by decide
theorem test_decode_wrpFb : decode 0x20110064 = .command (.wrpFb 0 100) := by decide
theorem test_decode_wrpFbCvBus : decode 0x20120002 = .command (.wrpFbCvBus 0 2) := by decide
theorem test_decode_wrpFbCvDepth : decode 0x20130032 = .command (.wrpFbCvDepth 0 50) := by decide
theorem test_decode_wrpPan : decode 0x2114FF9C = .command (.wrpPan 1 (-100)) := by decide
theorem test_decode_wrpPanCvBus : decode 0x20150003 = .command (.wrpPanCvBus 0 3) := by decide
theorem test_decode_wrpPanCvDepth : decode 0x27160032 = .command (.wrpPanCvDepth 7 50) := by decide
theorem test_decode_blkstart : decode 0x30000000 = .command (.blkstart) := by decide
theorem test_decode_frame : decode 0x40000000 = .command (.frame) := by decide

/-- The reserved words of section 2.1, each for its reason (R97). -/
theorem test_reserved_words :
    decode 0x00000001 = .reserved .nonzeroField ∧ decode 0x10010001 = .reserved .nonzeroField ∧
      decode 0x11000001 = .reserved .nonzeroField ∧ decode 0x28100001 = .reserved .channelAbove7 ∧
      decode 0x21030064 = .reserved .channelOfGlobal ∧ decode 0x20080000 = .reserved .parameter ∧
      decode 0x200F0000 = .reserved .parameter ∧ decode 0x20170000 = .reserved .parameter ∧
      decode 0x30000001 = .reserved .nonzeroField ∧ decode 0x41000000 = .reserved .nonzeroField ∧
      decode 0x50000000 = .reserved .opcode ∧ decode 0xFFFFFFFF = .reserved .opcode := by decide

/-- R100, R101: the textual form, `BLOCK`, and a parameter for every channel. -/
theorem test_assembler_text :
    asmText (.wrpPan 1 (-100)) = "WRP.PAN c1, -100" ∧ asmText (.wrpMaster 50) = "WRP.MASTER 50" ∧
      asmText .frame = "FRAME" ∧ blockWords 2 = [0x30000000, 0x40000000, 0x40000000] ∧
      wrpAllWords .wrpFb 2 50 = [0x20110032, 0x21110032] := by decide

/-- A table row's word, and a step that fetches it right after reset. -/
theorem test_first_step_after_reset :
    decodeTableWord 32 0x2114FF9C = some (.wrpPan 1 (-100)) ∧
      decodeTableWord 32 0x50000000 = none ∧
      (stepped (State.reset.withFetchWord 32 0x10000003)).inst.n = 3 ∧
      (stepped (State.reset.withFetchWord 32 0x10000003)).inst.run = true := by decide +kernel

/-! ### One step of each command, from 95_test_vectors.md section 2.12 unless another is named -/

theorem test_nop : after .nop idle = idle ∧ after .nop fresh = fresh := by decide +kernel

/-- Counts -1, 0 and 12 are clamped (section 2.1), and the values of R291. -/
theorem test_construct :
    (after (.construct (-1)) idle).inst.n = 1 ∧ (after (.construct 0) idle).inst.n = 1 ∧
      (after (.construct 12) idle).inst.n = 8 ∧ fresh.inst.fs = 10000 ∧ fresh.inst.thr = .rat 8 ∧
      fresh.inst.gr = .rat 1 ∧ fresh.inst.coef.cA = .rat (1 / 2) := by decide +kernel

/-- The new instance replaces the old one. -/
theorem test_construct_again : after (.construct 2) beforeSecond = { fresh with bus := beforeSecond.bus } := by
  decide +kernel

theorem test_wrpOutL : (after (.wrpOutL (-7)) wired).inst.raw = { wired.inst.raw with outL := -7 } := by
  decide +kernel

theorem test_wrpOutR : (after (.wrpOutR (-7)) wired).inst.raw = { wired.inst.raw with outR := -7 } := by
  decide +kernel

theorem test_wrpOutMode : (after (.wrpOutMode (-7)) wired).inst.raw = { wired.inst.raw with outMode := -7 } := by
  decide +kernel

theorem test_wrpMaster : (after (.wrpMaster (-7)) wired).inst.raw = { wired.inst.raw with master := -7 } := by
  decide +kernel

theorem test_wrpSat : (after (.wrpSat (-7)) wired).inst.raw = { wired.inst.raw with sat := -7 } := by
  decide +kernel

theorem test_wrpSquash : (after (.wrpSquash (-7)) wired).inst.raw = { wired.inst.raw with squash := -7 } := by
  decide +kernel

/-- P5 and P3: `9` is clamped to the buffer of 4, `2` is not; the other length stays. -/
theorem test_wrpLookahead :
    (after (.wrpLookahead 9) fresh).inst.laLen = 4 ∧ (after (.wrpLookahead 2) fresh).inst.laLen = 2 ∧
      (after (.wrpLookahead 9) fresh).inst.fbDelay = 1 := by decide +kernel

/-- A new rate is read with the length: `WRP.LOOKAHEAD 50` at 96000 Hz is 480 samples. -/
theorem test_wrpLookahead_rate :
    let s := after (.wrpLookahead 50) { fresh with hostFs := 96000, cfg := { testCfg with laBufSize := 1920 } }
    s.inst.fs = 96000 ∧ s.inst.laLen = 480 := by decide +kernel

/-- P2 and P4: lengths 2 and 3 stand; a longer one is clamped to one less than the buffer. -/
theorem test_wrpFbDelay :
    (after (.wrpFbDelay 2) fresh).inst.fbDelay = 2 ∧ (after (.wrpFbDelay 3) fresh).inst.fbDelay = 3 ∧
      (after (.wrpFbDelay 4) fresh).inst.fbDelay = 3 ∧ (after (.wrpFbDelay (-3)) fresh).inst.fbDelay = 1 := by
  decide +kernel

theorem test_wrpInBus : (after (.wrpInBus 1 50) wired).inst.raw.chan =
      wired.inst.raw.chan.set 1 { wired.inst.raw.chan[1] with inBus := 50 } ∧
    after (.wrpInBus 2 50) wired = wired := by decide +kernel

theorem test_wrpFb : (after (.wrpFb 1 50) wired).inst.raw.chan =
      wired.inst.raw.chan.set 1 { wired.inst.raw.chan[1] with fb := 50 } ∧
    after (.wrpFb 2 50) wired = wired := by decide +kernel

theorem test_wrpFbCvBus : (after (.wrpFbCvBus 1 50) wired).inst.raw.chan =
      wired.inst.raw.chan.set 1 { wired.inst.raw.chan[1] with fbCvBus := 50 } ∧
    after (.wrpFbCvBus 2 50) wired = wired := by decide +kernel

theorem test_wrpFbCvDepth : (after (.wrpFbCvDepth 1 50) wired).inst.raw.chan =
      wired.inst.raw.chan.set 1 { wired.inst.raw.chan[1] with fbCvDepth := 50 } ∧
    after (.wrpFbCvDepth 2 50) wired = wired := by decide +kernel

theorem test_wrpPan : (after (.wrpPan 1 50) wired).inst.raw.chan =
      wired.inst.raw.chan.set 1 { wired.inst.raw.chan[1] with pan := 50 } ∧
    after (.wrpPan 2 50) wired = wired := by decide +kernel

theorem test_wrpPanCvBus : (after (.wrpPanCvBus 1 50) wired).inst.raw.chan =
      wired.inst.raw.chan.set 1 { wired.inst.raw.chan[1] with panCvBus := 50 } ∧
    after (.wrpPanCvBus 2 50) wired = wired := by decide +kernel

theorem test_wrpPanCvDepth : (after (.wrpPanCvDepth 1 50) wired).inst.raw.chan =
      wired.inst.raw.chan.set 1 { wired.inst.raw.chan[1] with panCvDepth := 50 } ∧
    after (.wrpPanCvDepth 2 50) wired = wired := by decide +kernel

/-- The latch of section 2.9: out-of-range values are clamped or take the default. -/
theorem test_blkstart :
    let p := fresh.inst.raw
    let c : ChanRaw := { p.chan[0] with pan := -150, fb := 101, fbCvDepth := -1 }
    let s := after .blkstart (fresh.setInst (fresh.inst.setRaw
      { p with master := 50, sat := 7, outMode := 2, squash := 25, chan := p.chan.set 0 c }))
    s.inst.latched.tMaster = .rat (1 / 2) ∧ s.inst.latched.chan[0].tPan = .rat (-100) ∧
      s.inst.latched.sat = .soft ∧ s.inst.latched.mode = .accumulate ∧
      s.inst.latched.chan[0].tFb = .rat 1 ∧ s.inst.latched.chan[0].dFb = .rat 0 ∧
      s.inst.thr = .rat (13 / 2) := by decide +kernel

/-- P1, frame 2. -/
theorem test_frame :
    let s := after .frame beforeSecond
    s.inst.env = .rat (3 / 8) ∧ s.inst.gr = .rat 1 ∧ s.inst.chan[0].dcY1 = .rat 1 ∧
      s.inst.chan[1].dcY1 = .rat (1 / 2) ∧ memRead s.bus 3 = .rat (1 / 2) ∧
      memRead s.bus 4 = .rat (1 / 4) ∧ memRead s.inst.la 2 = .rat (1 / 2) ∧
      memRead s.inst.fb 3 = .rat (1 / 2) ∧ s.inst.fbW = 2 ∧ s.inst.laW = 2 := by decide +kernel

/-- P3, frame 5, in the knee of the Hard curve. -/
theorem test_frame_limiting :
    let i := wired.inst
    let s := after .frame { wired with
      inst := { i with
        sMaster := .rat 1
        laLen := 2
        la := [(0, .rat 8), (2, .rat 8), (4, .rat 4), (6, .rat 4)]
        env := .rat (41 / 8)
        gr := .rat (18247 / 43296)
        thr := .rat 2
        latched := { i.latched with sat := .hard, outL := 2, outR := 0, tMaster := .rat 1 } }
      bus := [(1, .rat 4)] }
    s.inst.env = .rat (155 / 32) ∧ s.inst.gr = .rat (5599229 / 13421760) ∧
      memRead s.bus 2 = .rat (10967933 / 6710880) := by decide +kernel

/-! ### Micro-operations, from the table named beside each -/

/-- Section 2.4. -/
theorem test_cv_modulation :
    cvFbBlend exactOps (.rat (1 / 2)) (.rat (1 / 2)) (.rat (5 / 2)) = .rat (5 / 8) ∧
      cvFbBlend exactOps (.rat 1) (.rat (1 / 2)) (.rat (-10)) = .rat (1 / 2) ∧
      cvFbBlend exactOps (.rat (1 / 2)) (.rat (1 / 4)) (.rat 10) = .rat (5 / 8) ∧
      cvPanSum exactOps (.rat (-20)) (.rat (1 / 2)) (.rat (5 / 2)) = .rat 5 ∧
      cvPanSum exactOps (.rat 50) (.rat 1) (.rat 5) = .rat 100 ∧
      cvPanSum exactOps (.rat 0) (.rat (1 / 4)) (.rat (-2)) = .rat (-10) := by decide +kernel

/-- R14: the order of the real numbers decides where an operand is no rational. By hand: `3 < pi < 4`. -/
theorem test_irrational_comparisons :
    exactLt (.rat 6) .twoPi = true ∧ exactLe .twoPi (.rat 6) = false ∧
      clampN exactOps .twoPi (.rat 0) (.rat 1) = .rat 1 ∧ clampN exactOps .halfPi (.rat 0) (.rat 2) = .halfPi := by
  have h3 := Real.pi_gt_three
  have h4 := Real.pi_le_four
  have lt : ∀ a b : NumVal, exactOps.lt a b = true ↔ realValue a < realValue b := exactLt_iff
  refine ⟨(exactLt_iff _ _).mpr ?_, Bool.not_eq_true _ ▸ mt (exactLe_iff _ _).mp ?_, ?_, ?_⟩
  · norm_num [realValue]; linarith
  · norm_num [realValue]; linarith
  · rw [clampN, if_neg (mt (lt _ _).mp ?_), if_pos ((lt _ _).mpr ?_)] <;> norm_num [realValue] <;> linarith
  · rw [clampN, if_neg (mt (lt _ _).mp ?_), if_neg (mt (lt _ _).mp ?_)] <;> norm_num [realValue] <;> linarith

/-- Section 2.5: ring slots and addresses, and the sum of R144. -/
theorem test_rings :
    ringRead 4 1 2 = 3 ∧ ringRead 4 0 1 = 3 ∧ ringRead 4 3 3 = 0 ∧ ringRead 1920 5 240 = 1685 ∧
      ringRead 4 2 4 = 2 ∧ fbAddr { fresh.inst with n := 8 } 1919 7 = 15359 ∧ laAddr 3 1 = 7 ∧
      fbSum exactOps (.rat 2) (.rat 2) (.rat (5 / 8)) = .rat (13 / 4) := by decide +kernel

/-- Section 2.6: the pans of -100 and 100 are exact on the machine's carrier too. -/
theorem test_pan_ends : pan exactOps (.rat (-100)) = (.rat 1, .rat 0) ∧
    pan exactOps (.rat 100) = (.rat 0, .rat 1) := by decide +kernel

/-- Section 2.7. -/
theorem test_curves :
    sat exactOps .hard (.rat (9 / 10)) = .rat (17 / 20) ∧ sat exactOps .hard (.rat (-1)) = .rat (-9 / 10) ∧
      sat exactOps .hard (.rat (101 / 100)) = .rat 1 ∧ sat exactOps .hard (.rat (4 / 5)) = .rat (4 / 5) ∧
      sat exactOps .soft (.rat 0) = .rat 0 ∧ sat exactOps .tube (.rat 0) = .rat 0 := by decide +kernel

/-- Section 2.8. -/
theorem test_limiter_steps :
    let k := fresh.inst.coef
    envNext exactOps k (.rat 0) (.rat 4) = .rat 2 ∧ envNext exactOps k (.rat 2) (.rat 0) = .rat (3 / 2) ∧
      gainTarget exactOps (.rat 2) (.rat 2) = .rat 1 ∧ gainTarget exactOps (.rat 3) (.rat 2) = .rat (2 / 3) ∧
      gainNext exactOps k (.rat (3 / 4)) (.rat 1) = .rat (7 / 8) ∧
      peakOf exactOps (.rat (-3)) (.rat 2) = .rat 3 := by decide +kernel

/-- Section 2.10, `(oL, oR) = (3, 5)` on lanes of 1: one lane for both outputs, and no lane. -/
theorem test_output_lanes :
    let bus : Memory := [(1, .rat 1), (2, .rat 1), (3, .rat 1), (4, .rat 1)]
    let out := fun (m : OutMode) (l r : Int) =>
      outWrite testCfg ⟨{ fresh.inst with
        latched := { fresh.inst.latched with mode := m, outL := l, outR := r } }, .rat 3, .rat 5⟩ bus
    memRead (out .overwrite 3 3) 3 = .rat 5 ∧ memRead (out .accumulate 3 3) 3 = .rat 9 ∧
      out .overwrite 5 (-1) = bus ∧ memRead (out .accumulate 1 2) 1 = .rat 4 := by decide +kernel

/-! ### Witnesses: for each statement with premises, values that meet all of them -/

theorem witness_ConstructGivesConstructValues : idle.hostFs ≠ 0 := by decide

theorem witness_FreshThresholdIsMaximum : idle.cfg.arith = .exactReals ∧ cfgWf idle.cfg = true := by
  decide +kernel

theorem witness_FreshFrameOnlyAdvancesRings : idle.cfg.arith = .exactReals ∧ cfgWf idle.cfg = true ∧
    exactLt idle.cfg.vMax (.rat 0) = false ∧ exec (.construct 2) idle = .next fresh :=
  ⟨rfl, by decide +kernel, by decide +kernel, rfl⟩

/-- Also for `BlockStartLatchesParameters`, `BlockStartIsIdempotent`, `FrameLeavesTheRest` and
`FrameIgnoresRawParameters`. -/
theorem witness_GlobalWritesStoreRawValue : wired.inst.run = true := by decide +kernel

/-- The lowest and the highest channel of an instance of two. -/
theorem witness_ChannelWritesStoreRawValue : wired.inst.run = true ∧
    (0 : ChField).toNat = (0 : Fin 8) ∧ (0 : Fin 8) < wired.inst.n ∧
    (1 : ChField).toNat = (1 : Fin 8) ∧ (1 : Fin 8) < wired.inst.n := by decide +kernel

/-- Also for `FeedbackDelayWriteActsAtOnce`. -/
theorem witness_LookaheadWriteActsAtOnce : wired.inst.run = true ∧ wired.hostFs ≠ 0 := by decide +kernel

/-- At the smallest sizes. -/
theorem witness_LengthCommandsKeepTheirRange :
    let s := { wired with cfg := { testCfg with fbBufSize := 2, laBufSize := 1 } }
    s.inst.run = true ∧ 2 ≤ s.cfg.fbBufSize ∧ 1 ≤ s.cfg.laBufSize := by decide +kernel

/-- Where the two clauses meet: 0 is in the first, 1 in the second. -/
theorem witness_MillisecondsRoundDown : (0 : Int) ≤ 0 ∧ (0 : Int) < 1 ∧ ms2samp 0 9999 = 0 ∧
    ms2samp 1 9999 = 0 ∧ ms2samp 1 10000 = 1 := by decide

theorem witness_UnconstructedIgnoresCommands : idle.inst.run = false ∧ ∀ n, Instr.frame ≠ .construct n :=
  ⟨rfl, fun _ h => Instr.noConfusion h⟩

theorem witness_MissingChannelIsIgnored : wired.inst.n ≤ (2 : ChField).toNat := by decide +kernel

/-- One command for each clause. -/
theorem witness_WritersOfEachRegister : exec .frame wired = .next (after .frame wired) ∧
    exec (.wrpPan 1 5) wired = .next (after (.wrpPan 1 5) wired) ∧ Instr.wrpPan 1 5 ≠ .frame ∧
    Instr.frame ≠ .blkstart ∧ (∀ n, Instr.wrpPan 1 5 ≠ .construct n) ∧ (∀ n, Instr.frame ≠ .construct n) ∧
    (∀ v, Instr.frame ≠ .wrpLookahead v) ∧ ∀ v, Instr.frame ≠ .wrpFbDelay v :=
  ⟨rfl, rfl, by decide, by decide, fun _ h => Instr.noConfusion h,
    fun _ h => Instr.noConfusion h, fun _ h => Instr.noConfusion h, fun _ h => Instr.noConfusion h⟩

theorem witness_WellFormedCommandsDecodeBack : wellFormed (.wrpPanCvDepth 7 (-32768)) = true := by decide

theorem witness_DecodedWordIsTheEncoding : decode 0x2716FFFF = .command (.wrpPanCvDepth 7 (-1)) := by decide

theorem witness_StepRunsDecodedCommand : decode 0x40000000 = .command .frame ∧
    (wired.setPort [.command 0x40000000]).port = .command 0x40000000 :: [] := ⟨by decide, rfl⟩

/-- One port for each clause; the lanes are the lowest and the highest. -/
theorem witness_StepOfOtherMoves : wired.port = [] ∧ decode 0x50000000 = .reserved .opcode ∧
    (wired.setPort [.command 0x50000000]).port = .command 0x50000000 :: [] ∧
    (wired.setPort [.setRate 48000]).port = .setRate 48000 :: [] ∧
    (wired.setPort [.setLane 1 (.rat 1)]).port = .setLane 1 (.rat 1) :: [] ∧
    (wired.setPort [.setLane 4 (.rat 1)]).port = .setLane 4 (.rat 1) :: [] ∧ 1 ≤ 4 ∧ 4 ≤ wired.cfg.nb :=
  ⟨by decide +kernel, by decide, rfl, rfl, rfl, rfl, by decide, by decide +kernel⟩

/-- The second outcome at both ends: lanes 0 and `NB + 1`. -/
theorem witness_StepStopsOnlyAtMissingLane :
    step (wired.setPort [.setLane 0 (.rat 1)]) = .fault (.noSuchLane 0) ∧
    step (wired.setPort [.setLane 5 (.rat 1)]) = .fault (.noSuchLane 5) := ⟨rfl, rfl⟩

theorem witness_HardwareResetClearsRun : (wired.setPort [.assertReset]).port = .assertReset :: [] := rfl

theorem witness_memories : MemoriesOk beforeSecond :=
  ⟨by decide +kernel, by decide +kernel, by decide +kernel, by decide +kernel⟩

/-- The integer registers and ring addresses of a running instance with words in its rings. -/
theorem witness_ranges : Ranges beforeSecond.cfg beforeSecond.inst := by
  constructor <;> decide +kernel

/-- The invariant holds of the same instance. -/
theorem witness_invariant : Inv beforeSecond where
  memories := witness_memories
  running := fun _ => by
    refine ⟨witness_ranges, ⟨?_, ?_⟩, ⟨?_, ?_⟩, fun c => ⟨?_, ?_⟩, fun c => ⟨?_, ?_⟩, fun c => ⟨?_, ?_⟩,
      fun c => ⟨?_, ?_⟩⟩ <;> (try revert c) <;> decide +kernel

theorem witness_StepKeepsStateInvariant :
    let s := beforeSecond.setPort [.command 0x40000000]
    s.cfg.arith = .exactReals ∧ cfgWf s.cfg = true ∧ Inv s ∧ step s = .next (stepped s) :=
  ⟨rfl, by decide +kernel, ⟨⟨witness_memories.1, witness_memories.2, witness_memories.3, witness_memories.4⟩,
    witness_invariant.running⟩, rfl⟩

/-- The second clause too: the sizes, the ranges before, and an instance that runs after. -/
theorem witness_StepKeepsMemories :
    let s := beforeSecond.setPort [.command 0x40000000]
    MemoriesOk s ∧ step s = .next (stepped s) ∧ 2 ≤ s.cfg.fbBufSize ∧ 1 ≤ s.cfg.laBufSize ∧
      (s.inst.run = true → Ranges s.cfg s.inst) ∧ (stepped s).inst.run = true :=
  ⟨⟨witness_memories.1, witness_memories.2, witness_memories.3, witness_memories.4⟩, rfl,
    by decide +kernel, by decide +kernel, fun _ => witness_ranges, by decide +kernel⟩

/-- Also for `FrameOutputLanes`, whose lanes run from 1 to `NB`. -/
theorem witness_FrameIsTheParallelDataflow : beforeSecond.inst.run = true ∧
    Memory.wf beforeSecond.inst.la = true ∧ Memory.wf beforeSecond.bus = true ∧ 1 ≤ 4 ∧
    4 ≤ beforeSecond.cfg.nb := by decide +kernel

theorem witness_FrameChannelRegisters : beforeSecond.inst.run = true ∧
    (1 : Fin 8) < beforeSecond.inst.n ∧ Memory.wf beforeSecond.inst.fb = true := by decide +kernel

/-- A bus that differs on the output lanes, and on a lane no channel names. -/
theorem witness_FrameReadsOnlyNamedLanes : beforeSecond.inst.run = true ∧
    ∀ c : Fin 8, c < beforeSecond.inst.n → ∀ lane ∈ [beforeSecond.inst.latched.chan[c].inBus,
        beforeSecond.inst.latched.chan[c].fbCvBus, beforeSecond.inst.latched.chan[c].panCvBus],
      1 ≤ lane → lane ≤ beforeSecond.cfg.nb →
        memRead (memWrite beforeSecond.bus 3 (.rat 9)) lane.toNat = memRead beforeSecond.bus lane.toNat := by
  decide +kernel

/-- The shortest and the longest delay of a ring of 4. -/
theorem witness_FeedbackComesBackAfterDelay :
    (∀ d ∈ [1, 3],
      let s := beforeSecond.setInst (beforeSecond.inst.setFbDelay d)
      s.inst.run = true ∧ (1 : Fin 8) < s.inst.n ∧ s.inst.fbW < s.cfg.fbBufSize ∧ 1 ≤ s.inst.fbDelay ∧
        s.inst.fbDelay < s.cfg.fbBufSize) ∧
    ([] : List Memory).length + 1 = 1 ∧ ([[], []] : List Memory).length + 1 = 3 := by decide +kernel

/-- The shortest and the longest lookahead of a ring of 4 that delays. -/
theorem witness_MixLeavesAfterLookahead :
    (∀ d ∈ [1, 3],
      let s := beforeSecond.setInst (beforeSecond.inst.setLaLen d)
      s.inst.run = true ∧ Memory.wf s.inst.la = true ∧ s.inst.laW < s.cfg.laBufSize ∧ 1 ≤ s.inst.laLen ∧
        s.inst.laLen < s.cfg.laBufSize) ∧
    ([] : List Memory).length + 1 = 1 ∧ ([[], []] : List Memory).length + 1 = 3 := by decide +kernel

theorem witness_WholeBufferLookaheadHasNoDelay :
    let i := beforeSecond.inst.setLaLen 4
    Memory.wf i.la = true ∧ i.laW < testCfg.laBufSize ∧ i.laLen = testCfg.laBufSize := by decide +kernel

/-- A mix of 1 under a threshold of 8. -/
theorem witness_TransparentLimiterIsADelay :
    let a : Stereo := ⟨beforeSecond.inst, .rat 1, .rat 1⟩
    testCfg.arith = .exactReals ∧ (limit testCfg a).inst.gr = .rat 1 ∧
      exactLe (limit testCfg a).inst.env a.inst.thr = true := by decide +kernel

/-- A listed rate and one that is not. -/
theorem witness_CoefficientsOfTheRate : (∃ k, testCfg.coefTable = [] ++ (10000, k) :: []) ∧
    (∀ e ∈ testCfg.coefTable, e.1 ≠ 48000) ∧ testCfg.arith = .exactReals ∧ (48000 : Rate) ≠ 0 ∧
    cfgWf testCfg = true := ⟨⟨_, rfl⟩, by decide, rfl, by decide, by decide +kernel⟩

/-- A mix of 1 and of -8 under a threshold of 8: inside, and at the end of the range. -/
theorem witness_LimiterStaysTransparent :
    let a : Stereo := ⟨beforeSecond.inst, .rat 1, .rat (-8)⟩
    testCfg.arith = .exactReals ∧ a.inst.gr = .rat 1 ∧ stepsInRange exactOps a.inst.coef = true ∧
      0 ≤ realValue a.inst.env ∧ realValue a.inst.env ≤ realValue a.inst.thr ∧
      |realValue a.l| ≤ realValue a.inst.thr ∧ |realValue a.r| ≤ realValue a.inst.thr := by
  have hThr : beforeSecond.inst.thr = .rat 8 := by decide +kernel
  have hEnv : beforeSecond.inst.env = .rat (1 / 4) := by decide +kernel
  refine ⟨rfl, by decide +kernel, by decide +kernel, ?_⟩
  norm_num [hThr, hEnv, realValue, abs_of_nonneg]

/-- A gain of 3/4 under the coefficients of TESTCFG and its lowest threshold. -/
theorem witness_LimiterStaysEngaged :
    let a : Stereo := ⟨{ beforeSecond.inst with thr := .rat 2, gr := .rat (3 / 4) }, .rat 9, .rat (-9)⟩
    testCfg.arith = .exactReals ∧ stepsInRange exactOps a.inst.coef = true ∧
      realValue a.inst.coef.cG < 1 ∧ 0 < realValue a.inst.thr ∧ 0 < realValue a.inst.gr ∧
      realValue a.inst.gr < 1 := by
  have hG : beforeSecond.inst.coef.cG = .rat (1 / 2) := by decide +kernel
  refine ⟨rfl, by decide +kernel, ?_⟩
  norm_num [hG, realValue]

/-- A length inside the ring and the length of the whole ring. -/
theorem witness_RingReadSlots : (3 < 4 ∧ 1 ≤ 1 ∧ 1 ≤ 4) ∧ (3 < 4 ∧ 1 ≤ 4 ∧ 4 ≤ 4) ∧
    ringRead 4 3 1 = 2 ∧ ringRead 4 3 4 = 3 := by decide

/-- A smoother that is not instant and one that is; `p` on either side of the target. -/
theorem witness_SmootherLaws : ((0 : ℝ) < 1 / 2 ∧ (1 / 2 : ℝ) ≤ 1 ∧ (1 / 2 : ℝ) < 1) ∧
    ((0 : ℝ) < 1 ∧ (1 : ℝ) ≤ 1) ∧ ((0 : ℝ) ≤ 1 ∧ (0 : ℝ) ≠ 1) ∧ (1 : ℝ) ≤ 2 := by norm_num

theorem witness_DcBlockerLaws : ((0 : ℝ) ≤ 0 ∧ (0 : ℝ) < 1) ∧ (0 : ℝ) ≤ 1 / 2 ∧ (1 / 2 : ℝ) < 1 := by norm_num

/-- The ends of each range; 0 is in both clauses of full depth, and `0 + 100` and `0 - 100` are the values
they meet in. -/
theorem witness_CvModulationCorners : (-5 : ℝ) ≤ -5 ∧ (-5 : ℝ) ≤ 5 ∧ (5 : ℝ) ≤ 5 ∧
    ((0 : ℝ) ≤ 0 ∧ (0 : ℝ) ≤ 1 ∧ (1 : ℝ) ≤ 1) ∧
    (-100 : ℝ) ≤ -100 ∧ (-100 : ℝ) ≤ 100 ∧ (100 : ℝ) ≤ 100 ∧ (-100 : ℝ) ≤ 0 ∧ (0 : ℝ) ≤ 100 := by norm_num

theorem witness_PanKeepsPower : (-100 : ℝ) ∈ Set.Icc (-100 : ℝ) 100 ∧ (100 : ℝ) ∈ Set.Icc (-100 : ℝ) 100 := by
  norm_num

theorem witness_SoftCurveLaws : (1 : ℝ) ≠ 0 := by norm_num

theorem witness_TubeCurveLaws : (0 : ℝ) ≤ 0 ∧ (-1 : ℝ) < 0 := by norm_num

/-- The ends of the three pieces. -/
theorem witness_HardCurveLaws : |(0.8 : ℝ)| ≤ 0.8 ∧ ((0.8 : ℝ) < 1 ∧ (1 : ℝ) ≤ 1) ∧ (1 : ℝ) < 1.01 := by
  norm_num [abs_of_pos]

theorem witness_CurveBoundsByThreshold : (0 : ℝ) < 2 := by norm_num

/-- The coefficients of TESTCFG; a peak of 0 is at an envelope of 0, one of 4 is above it. -/
theorem witness_EnvelopeLaws :
    let K : Coeffs ℝ := ⟨1 / 2, 1, 1 / 2, 1 / 4, 1 / 2⟩
    0 < K.cRl ∧ K.cRl ≤ K.cA ∧ K.cA ≤ 1 ∧ (0 : ℝ) ≤ 0 ∧ (0 : ℝ) < 4 := by norm_num

/-- An envelope at the threshold and one above it. -/
theorem witness_TargetGainLaw : (0 : ℝ) < 2 ∧ (2 : ℝ) ≤ 2 ∧ (2 : ℝ) < 4 := by norm_num

/-- Also for `CurveStaysEngaged`: a gain below 1, an envelope above the threshold. -/
theorem witness_SmoothedGainLaw :
    let K : Coeffs ℝ := ⟨1 / 2, 1, 1 / 2, 1 / 4, 1 / 2⟩
    0 < K.cG ∧ K.cG ≤ 1 ∧ K.cG < 1 ∧ (0 : ℝ) < 3 / 4 ∧ (3 / 4 : ℝ) ≤ 1 ∧ (3 / 4 : ℝ) < 1 ∧ (0 : ℝ) < 1 ∧
      (0 : ℝ) < 2 ∧ (2 : ℝ) < 4 := by norm_num

/-- The range of TESTCFG; squash 0 and 100, the ends. -/
theorem witness_ThresholdFallsWithSquash : (0 : ℝ) < 2 ∧ (2 : ℝ) ≤ 8 ∧ (2 : ℝ) < 8 ∧
    (0 : Int) ≤ (0 : Raw).toInt ∧ (0 : Raw).toInt < (100 : Raw).toInt ∧ (100 : Raw).toInt ≤ 100 := by
  refine ⟨by norm_num, by norm_num, by norm_num, by decide, by decide, by decide⟩

end Sys2Proof.Tests
end

section
/-! PROOFS. Each exact operation on expressions against the real operation it stands for (00_scope.md
R14), and the statements about R14, R16 and R8. -/

namespace Sys2Proof.Machine

/-! ### Exact arithmetic denotes real arithmetic

One law per operation, along the operation's own branches: two rationals are computed, a neutral or
absorbing operand is simplified away, and otherwise the expression is kept. -/

@[simp] theorem realValue_exactAdd (a b : NumVal) :
    realValue (exactAdd a b) = realValue a + realValue b := by
  unfold exactAdd
  split
  · simp [realValue]
  · split_ifs with ha hb
    · simp [ha, realValue]
    · simp [hb, realValue]
    · rfl

@[simp] theorem realValue_exactSub (a b : NumVal) :
    realValue (exactSub a b) = realValue a - realValue b := by
  unfold exactSub
  split
  · simp [realValue]
  · split_ifs with hab hb
    · simp [hab, realValue]
    · simp [hb, realValue]
    · rfl

@[simp] theorem realValue_exactMul (a b : NumVal) :
    realValue (exactMul a b) = realValue a * realValue b := by
  unfold exactMul
  split
  · simp [realValue]
  · split_ifs with hzero ha hb
    · obtain ha | hb := hzero
      · simp [ha, realValue]
      · simp [hb, realValue]
    · simp [ha, realValue]
    · simp [hb, realValue]
    · rfl

/-- Also for a quotient by 0, where both sides are Lean's (log 21). -/
@[simp] theorem realValue_exactDiv (a b : NumVal) :
    realValue (exactDiv a b) = realValue a / realValue b := by
  unfold exactDiv
  split
  · split_ifs with hq
    · rfl
    · simp [realValue]
  · split_ifs with hb
    · simp [hb, realValue]
    · rfl

@[simp] theorem realValue_exactMax (a b : NumVal) :
    realValue (exactMax a b) = max (realValue a) (realValue b) := by
  unfold exactMax
  split
  · simp [realValue]
  · split_ifs with hab
    · simp [hab]
    · rfl

@[simp] theorem realValue_exactAbs (a : NumVal) : realValue (exactAbs a) = |realValue a| := by
  unfold exactAbs
  split
  · simp [realValue]
  · rfl

@[simp] theorem realValue_exactTanh (a : NumVal) :
    realValue (exactTanh a) = Real.tanh (realValue a) := by
  unfold exactTanh
  split_ifs with hzero
  · simp [hzero, realValue]
  · rfl

@[simp] theorem realValue_exactCos (a : NumVal) :
    realValue (exactCos a) = Real.cos (realValue a) := by
  unfold exactCos
  split_ifs with hzero hhalf
  · simp [hzero, realValue]
  · simp [hhalf, realValue]
  · rfl

@[simp] theorem realValue_exactSin (a : NumVal) :
    realValue (exactSin a) = Real.sin (realValue a) := by
  unfold exactSin
  split_ifs with hzero hhalf
  · simp [hzero, realValue]
  · simp [hhalf, realValue]
  · rfl

@[simp] theorem realValue_exactExp (a : NumVal) :
    realValue (exactExp a) = Real.exp (realValue a) := by
  unfold exactExp
  split_ifs with hzero
  · simp [hzero, realValue]
  · rfl

/-- The equality of the total order is equality of real values, not of expressions. -/
theorem exactEq_iff (a b : NumVal) : exactEq a b = true ↔ realValue a = realValue b := by
  have hle : exactEq a b = true ↔ exactLe b a = true ∧ exactLe a b = true := by
    simp [exactEq, exactLe]
  rw [hle, exactLe_iff, exactLe_iff, and_comm]
  exact antisymm_iff

/-- Settles O41: the operations by their laws above, the order by `exactLt_iff`, `exactLe_iff` and
`exactEq_iff`. -/
theorem exactArithmeticIsReal : Obligations.ExactArithmeticIsReal := by
  intro a b
  exact ⟨realValue_exactAdd a b, realValue_exactSub a b, realValue_exactMul a b,
    realValue_exactDiv a b, realValue_exactMax a b, realValue_exactAbs a, realValue_exactTanh a,
    realValue_exactCos a, realValue_exactSin a, realValue_exactExp a, exactLt_iff a b,
    exactLe_iff a b, exactEq_iff a b⟩

/-! ### Milliseconds to samples -/

theorem ms2samp_of_nonpos {raw : Int} (h : raw ≤ 0) (fs : Nat) : ms2samp raw fs = 0 := if_pos h

theorem ms2samp_of_pos {raw : Int} (h : 0 < raw) (fs : Nat) :
    ms2samp raw fs = raw * fs / 10000 := if_neg (not_le.mpr h)

/-- Settles O11: the quotient of a positive raw value is rounded down. -/
theorem millisecondsRoundDown : Obligations.MillisecondsRoundDown := by
  refine ⟨fun raw fs => ⟨fun h => ms2samp_of_nonpos h fs, fun h => ?_⟩, by decide⟩
  rw [ms2samp_of_pos h]
  exact ⟨Int.ediv_mul_le _ (by decide), Int.lt_ediv_add_one_mul_self _ (by decide)⟩

/-! ### A step on a command word -/

/-- A whole 32-bit word is presented as it is. -/
@[simp] theorem tableWord_toNat (w : Word) : tableWord 32 w.toNat = w := by
  rw [tableWord, Nat.mod_eq_of_lt w.isLt, BitVec.ofNat_toNat, BitVec.setWidth_eq]

/-- A step whose oldest host move is a command word runs the command it decodes to. -/
theorem step_command {s : State} {w : Word} {rest : List HostMove} {i : Instr}
    (hport : s.port = .command w :: rest) (hdec : decode w = .command i) :
    step s = exec i (s.setPort rest) :=
  (step_move hport).trans (acceptWord_command hdec)

@[simp] theorem withFetchWord_port (s : State) (w : Word) :
    (s.withFetchWord 32 w.toNat).port = .command w :: s.port := by
  simp [State.withFetchWord, presentWord]

/-- Taking the presented word off the port again gives back the state it was presented to. -/
@[simp] theorem withFetchWord_setPort (s : State) (nbits w : Nat) :
    (s.withFetchWord nbits w).setPort s.port = s := rfl

/-- Settles O23: both clauses are `step_command`, the second on the port `withFetchWord` makes. -/
theorem stepRunsDecodedCommand : Obligations.StepRunsDecodedCommand := by
  intro i w s hdec
  refine ⟨fun rest hport => step_command hport hdec, ?_⟩
  rw [step_command (withFetchWord_port s w) hdec, withFetchWord_setPort]

end Sys2Proof.Machine
end

section
/-! PROOFS. The coefficients of a rate (10_state.md R36), and the values a latch gives (R53,
46_mixengine_frame.md R210, R211). -/

namespace Sys2Proof.Machine

/-! ### The exact arithmetic by its operations -/

@[simp] theorem exactOps_ofInt (z : Int) : exactOps.ofInt z = .rat z := rfl
@[simp] theorem exactOps_twoPi : exactOps.twoPi = .twoPi := rfl
@[simp] theorem exactOps_add (a b : NumVal) : exactOps.add a b = exactAdd a b := rfl
@[simp] theorem exactOps_sub (a b : NumVal) : exactOps.sub a b = exactSub a b := rfl
@[simp] theorem exactOps_mul (a b : NumVal) : exactOps.mul a b = exactMul a b := rfl
@[simp] theorem exactOps_div (a b : NumVal) : exactOps.div a b = exactDiv a b := rfl
@[simp] theorem exactOps_lt (a b : NumVal) : exactOps.lt a b = exactLt a b := rfl
@[simp] theorem exactOps_le (a b : NumVal) : exactOps.le a b = exactLe a b := rfl

@[simp] theorem realValue_rat (q : Rat) : realValue (.rat q) = q := rfl
@[simp] theorem realValue_twoPi : realValue .twoPi = 2 * Real.pi := rfl

theorem between_exactOps_iff (lo v hi : NumVal) :
    between exactOps lo v hi ↔ realValue lo ≤ realValue v ∧ realValue v ≤ realValue hi := by
  simp [between, exactLe_iff]

/-! ### Well-formed configurations -/

/-- What 00_scope.md R11 asks of a configuration, clause by clause. -/
theorem cfgWf_iff (C : Cfg) : cfgWf C = true ↔
    let N := arithOps C.arith
    2 ≤ C.fbBufSize ∧ 1 ≤ C.laBufSize ∧ (1 ≤ C.nb ∧ C.nb ≤ 32767) ∧
    (N.lt (N.ofInt 0) C.vMin = true ∧ N.le C.vMin C.vMax = true) ∧
    (N.lt (N.ofInt 0) (N.ofInt 1) = true ∧ N.le (N.ofInt 1) (N.ofInt 1) = true) ∧
    ∀ e ∈ C.coefTable, coefInRange N e.2 = true := by
  simp only [cfgWf, Bool.and_eq_true, decide_eq_true_eq, List.all_eq_true, and_assoc]

/-- In a well-formed configuration of exact arithmetic the threshold's range is not empty. -/
theorem vMin_le_vMax {C : Cfg} (harith : C.arith = .exactReals) (hwf : cfgWf C = true) :
    realValue C.vMin ≤ realValue C.vMax := by
  obtain ⟨-, -, -, ⟨-, hle⟩, -⟩ := (cfgWf_iff C).mp hwf
  rw [arithOps_exact harith] at hle
  exact (exactLe_iff _ _).mp hle

/-! ### The coefficients of a rate -/

/-- A listed rate has the coefficients of its first row. -/
theorem coefOf_listed {C : Cfg} {fs : Rate} {pre post : List (Rate × Coeffs NumVal)}
    {k : Coeffs NumVal} (hpre : ∀ e ∈ pre, e.1 ≠ fs)
    (htable : C.coefTable = pre ++ (fs, k) :: post) : coefOf C fs = k := by
  have hnone : pre.find? (fun e => e.1 = fs) = none := by simpa using hpre
  simp [coefOf, htable, List.find?_append, hnone]

/-- A rate without a row has the default formulas. -/
theorem coefOf_unlisted {C : Cfg} {fs : Rate} (h : ∀ e ∈ C.coefTable, e.1 ≠ fs) :
    coefOf C fs = defaultCoef (arithOps C.arith) fs := by
  have hnone : C.coefTable.find? (fun e => e.1 = fs) = none := by simpa using h
  simp [coefOf, hnone]

theorem realValue_defaultCoef_cR (fs : Rate) :
    realValue (defaultCoef exactOps fs).cR = 1 - 2 * Real.pi * 5 / (fs.toNat : ℝ) := by
  simp [defaultCoef]

theorem realValue_defaultCoef_cS (fs : Rate) :
    realValue (defaultCoef exactOps fs).cS = 2 * Real.pi * 50 / (fs.toNat : ℝ) := by
  simp [defaultCoef]

/-- The attack and release steps are in their range in every arithmetic that has `0 < 1 <= 1`: they are
the open ones, in range, or both 1 (log 6). -/
theorem attackRelease_inRange {N : NumOps NumVal} (a r : NumVal)
    (hpos : N.lt (N.ofInt 0) (N.ofInt 1) = true) (hle : N.le (N.ofInt 1) (N.ofInt 1) = true) :
    N.lt (N.ofInt 0) (attackRelease N a r).2 = true ∧
      N.le (attackRelease N a r).2 (attackRelease N a r).1 = true ∧
      N.le (attackRelease N a r).1 (N.ofInt 1) = true := by
  obtain ⟨heq, hrange⟩ | heq := attackRelease_cases N a r
  · rw [heq]; exact hrange
  · rw [heq]; exact ⟨hpos, hle, hle⟩

/-- The gain step, likewise. -/
theorem gainStep_inRange {N : NumOps NumVal} (g : NumVal)
    (hpos : N.lt (N.ofInt 0) (N.ofInt 1) = true) (hle : N.le (N.ofInt 1) (N.ofInt 1) = true) :
    N.lt (N.ofInt 0) (gainStep N g) = true ∧ N.le (gainStep N g) (N.ofInt 1) = true := by
  obtain ⟨heq, hrange⟩ | heq := gainStep_cases N g
  · rw [heq]; exact hrange
  · rw [heq]; exact ⟨hpos, hle⟩

/-- Settles O57: a listed rate by its first row, an unlisted one by the default formulas. -/
theorem coefficientsOfTheRate : Obligations.CoefficientsOfTheRate := by
  intro C fs
  refine ⟨fun pre post k => coefOf_listed, fun hunlisted => ?_⟩
  rw [coefOf_unlisted hunlisted]
  refine ⟨fun harith _ => ?_, fun hwf => ?_⟩
  · rw [arithOps_exact harith]
    exact ⟨realValue_defaultCoef_cR fs, realValue_defaultCoef_cS fs⟩
  · obtain ⟨-, -, -, -, ⟨hpos, hle⟩, -⟩ := (cfgWf_iff C).mp hwf
    obtain ⟨hrelease, horder, hattack⟩ := attackRelease_inRange _ _ hpos hle
    exact ⟨hrelease, horder, hattack, gainStep_inRange _ hpos hle⟩

/-! ### What a latch gives -/

/-- 10_state.md R41, R47, R49, R52: a percent parameter is latched into `0..1`. -/
theorem percent_between (v : Raw) :
    between exactOps (exactOps.ofInt 0) (percent exactOps v) (exactOps.ofInt 1) := by
  obtain ⟨hlo, hhi⟩ := clampi_mem (v := signed v) (show (0 : Int) ≤ 100 by decide)
  have hlo' : (0 : ℝ) ≤ (clampi (signed v) 0 100 : Int) := by exact_mod_cast hlo
  have hhi' : ((clampi (signed v) 0 100 : Int) : ℝ) ≤ 100 := by exact_mod_cast hhi
  simp only [between_exactOps_iff, percent, exactOps_ofInt, exactOps_div, realValue_exactDiv,
    realValue_rat, Rat.cast_intCast]
  constructor
  · push_cast; positivity
  · push_cast; linarith

/-- 10_state.md R50: a pan parameter is latched into `-100..100`. -/
theorem panTarget_between (v : Raw) :
    between exactOps (exactOps.ofInt (-100)) (panTarget exactOps v) (exactOps.ofInt 100) := by
  simpa only [between_exactOps_iff, panTarget, exactOps_ofInt, realValue_rat, Rat.cast_intCast,
    Int.cast_le] using clampi_mem (show (-100 : Int) ≤ 100 by decide)

/-- 46_mixengine_frame.md R211: the two guards bring the threshold into its range. -/
theorem thresh_between {vMax vMin : NumVal} (h : realValue vMin ≤ realValue vMax) (v : Raw) :
    between exactOps vMin (thresh exactOps vMax vMin v) vMax := by
  simp only [between_exactOps_iff, thresh, exactOps_lt, exactLt_iff]
  split_ifs with hlow hhigh hhigh <;> constructor <;> linarith

theorem percent_exactOps_zero : percent exactOps 0#16 = .rat 0 := by
  simp [percent, signed, clampi, exactDiv]

theorem panTarget_exactOps_zero : panTarget exactOps 0#16 = .rat 0 := by
  simp [panTarget, signed, clampi]

/-- With no squash the threshold is its maximum, as data. -/
theorem thresh_exactOps_zero {vMax vMin : NumVal} (h : realValue vMin ≤ realValue vMax) :
    thresh exactOps vMax vMin 0#16 = vMax := by
  have hguard : ¬ exactLt vMax vMin = true := by rw [exactLt_iff]; exact not_lt.mpr h
  simp [thresh, percent_exactOps_zero, hguard]

/-- `CONSTRUCT` latches all-zero raw parameters. -/
theorem construct_latch (n : Raw) (s : State) :
    (construct n s).inst.latched = latchOf (arithOps s.cfg.arith)
      ⟨0, 0, 0, 0, 0, 0, 0, 0, Vector.replicate 8 ⟨0, 0, 0, 0, 0, 0, 0⟩⟩ ∧
    (construct n s).inst.thr = thresh (arithOps s.cfg.arith) s.cfg.vMax s.cfg.vMin 0 := ⟨rfl, rfl⟩

/-- Settles O4: the latch of all-zero raw parameters, in exact arithmetic. -/
theorem freshThresholdIsMaximum : Obligations.FreshThresholdIsMaximum := by
  intro n s harith hwf
  obtain ⟨hlatched, hthr⟩ := construct_latch n s
  rw [arithOps_exact harith] at hlatched hthr
  refine ⟨construct n s, rfl, hthr.trans (thresh_exactOps_zero (vMin_le_vMax harith hwf)), ?_⟩
  simp [hlatched, latchOf, latchChan, signed, modeOf, satOf, percent_exactOps_zero,
    panTarget_exactOps_zero]

end Sys2Proof.Machine
end

section
/-! PROOFS. The state invariant of 10_state.md R58: what one step of the machine can do, and that the
memories, the integer registers and the latched values stay in their ranges under each of it. -/

namespace Sys2Proof.Machine

/-! ### The machine after reset -/

theorem resetVMin_pos : 0 < Config.resetVMin := by
  unfold Config.resetVMin
  split_ifs with h
  · exact h
  · exact one_pos

/-- The open parameters of `State.reset` are brought into the ranges of 00_scope.md R11 (log 5). -/
theorem cfgWf_reset : cfgWf Config.cfg = true := by
  have hlanes : Config.openNb % 32767 < 32767 := Nat.mod_lt _ (by decide)
  refine (cfgWf_iff _).mpr ⟨by decide, by decide, ?_, ⟨?_, ?_⟩, by decide, ?_⟩
  · simp only [Config.cfg]; omega
  · simpa [Config.cfg, arithOps] using resetVMin_pos
  · simp [Config.cfg, arithOps, exactLe]
  · simp [Config.cfg]

/-- Settles O27: `S.run = 0`, and every memory is empty. -/
theorem resetHasStateInvariant : Obligations.ResetHasStateInvariant := by
  have hbus : ∀ p ∈ State.reset.bus, 1 ≤ p.1 ∧ p.1 ≤ State.reset.cfg.nb :=
    fun _ h => absurd h List.not_mem_nil
  have hrun : State.reset.inst.run = false := rfl
  refine ⟨hrun, rfl, cfgWf_reset, ⟨⟨rfl, rfl, rfl, hbus⟩, fun h => ?_⟩⟩
  exact absurd (hrun.symm.trans h) Bool.false_ne_true

/-! ### What one step can do -/

/-- All a move of the host can do to a state. `held` are `NOP`, a reserved word, and a command that finds
`S.run = 0` or names a channel there is not. -/
inductive MoveEffect (s : State) : State → Prop where
  | held : MoveEffect s s
  | constructed (n : Raw) : MoveEffect s (construct n s)
  | rawStored (run : s.inst.run = true) (f : RawParams → RawParams) : MoveEffect s (storeGlobal s f)
  | lookaheadSet (run : s.inst.run = true) (v : Raw) : MoveEffect s (setLookahead v s)
  | fbDelaySet (run : s.inst.run = true) (v : Raw) : MoveEffect s (setFeedbackDelay v s)
  | latched (run : s.inst.run = true) : MoveEffect s (s.setInst (latch s.cfg s.inst))
  | framed (run : s.inst.run = true) : MoveEffect s (processFrame s)
  | rateDriven (f : Rate) : MoveEffect s (s.setHostFs f)
  | laneDriven (i : Nat) (valid : busValid s.cfg i = true) (v : NumVal) :
      MoveEffect s (s.setBus (memWrite s.bus i v))
  | wasReset : MoveEffect s (hardwareReset s)

/-- A command that needs `S.run = 1` is held, or has its effect there. -/
theorem whenRunning_effect {s t : State} {f : State → State} (h : whenRunning s f = .next t)
    (hf : s.inst.run = true → MoveEffect s (f s)) : MoveEffect s t := by
  obtain ⟨hrun, heq⟩ | ⟨-, heq⟩ := whenRunning_cases s f
  · cases heq.symm.trans h; exact hf hrun
  · cases heq.symm.trans h; exact .held

theorem storeChannel_effect {s t : State} {c : ChField} {f : ChanRaw → ChanRaw}
    (h : storeChannel s c f = .next t) : MoveEffect s t := by
  obtain ⟨k, hrun, -, heq⟩ | heq := storeChannel_cases s c f
  · cases heq.symm.trans h; exact .rawStored hrun _
  · cases heq.symm.trans h; exact .held

theorem exec_effect {i : Instr} {s t : State} (h : exec i s = .next t) : MoveEffect s t := by
  cases i with
  | nop => cases h; exact .held
  | construct n => cases h; exact .constructed n
  | wrpOutL v | wrpOutR v | wrpOutMode v | wrpMaster v | wrpSat v | wrpSquash v =>
    simp only [exec_wrpOutL, exec_wrpOutR, exec_wrpOutMode, exec_wrpMaster, exec_wrpSat,
      exec_wrpSquash] at h
    exact whenRunning_effect h fun run => .rawStored run _
  | wrpLookahead v => exact whenRunning_effect h fun run => .lookaheadSet run v
  | wrpFbDelay v => exact whenRunning_effect h fun run => .fbDelaySet run v
  | wrpInBus c v | wrpFb c v | wrpFbCvBus c v | wrpFbCvDepth c v | wrpPan c v | wrpPanCvBus c v
  | wrpPanCvDepth c v =>
    simp only [exec_wrpInBus, exec_wrpFb, exec_wrpFbCvBus, exec_wrpFbCvDepth, exec_wrpPan,
      exec_wrpPanCvBus, exec_wrpPanCvDepth] at h
    exact storeChannel_effect h
  | blkstart => exact whenRunning_effect ((exec_blkstart s).symm.trans h) .latched
  | frame => exact whenRunning_effect h .framed

theorem acceptWord_effect {s t : State} {w : Word} (h : acceptWord s w = .next t) :
    MoveEffect s t := by
  cases hdec : decode w with
  | command i => exact exec_effect ((acceptWord_command hdec).symm.trans h)
  | reserved why => cases (acceptWord_reserved hdec).symm.trans h; exact .held

theorem driveLane_effect {s t : State} {i : Nat} {v : NumVal} (h : driveLane s i v = .next t) :
    MoveEffect s t := by
  unfold driveLane at h
  split_ifs at h with hvalid
  cases h
  exact .laneDriven i hvalid v

theorem hostMove_effect {m : HostMove} {s t : State} (h : hostMove m s = .next t) :
    MoveEffect s t := by
  cases m with
  | command w => exact acceptWord_effect h
  | setRate f => cases h; exact .rateDriven f
  | setLane i v => exact driveLane_effect h
  | assertReset => cases h; exact .wasReset

/-- A step is held, or has the effect of a move of the host on the state with that move taken. -/
theorem step_effect {s t : State} (h : step s = .next t) : ∃ q, MoveEffect (s.setPort q) t := by
  cases hport : s.port with
  | nil =>
    cases (step_idle hport).symm.trans h
    exact ⟨s.port, .held⟩
  | cons m rest => exact ⟨rest, hostMove_effect ((step_move hport).symm.trans h)⟩

theorem MoveEffect.cfg_eq {s t : State} (h : MoveEffect s t) : t.cfg = s.cfg := by
  cases h <;> rfl

/-! ### The frame's registers, rings and lanes -/

/-- What a frame leaves of the registers: all but the smoothed and filtered registers, the envelope, the
gain, and the two rings with their write indices. -/
theorem processFrame_inst_kept (s : State) :
    ∃ chan sMaster env gr l r, (processFrame s).inst = { s.inst with
      chan := chan
      sMaster := sMaster
      env := env
      gr := gr
      fb := (mixChannels s.cfg s.bus s.inst).inst.fb
      fbW := ringNext s.cfg.fbBufSize s.inst.fbW
      la := memWrite (memWrite s.inst.la (laAddr s.inst.laW 0) l) (laAddr s.inst.laW 1) r
      laW := ringNext s.cfg.laBufSize s.inst.laW } := by
  have hrest := (mixChannels_spec s.cfg s.bus s.inst).1.rest
  rw [processFrame_inst]
  generalize (mixChannels s.cfg s.bus s.inst).inst = j at hrest ⊢
  rw [hrest]
  exact ⟨_, _, _, _, _, _, rfl⟩

/-- The channel loop writes only words of its own slot in the feedback ring (20_memory.md R61). -/
theorem mixChannels_fb_addr {C : Cfg} {bus : Memory} {i : Instance} (hW : i.fbW < C.fbBufSize)
    (hfb : ∀ p ∈ i.fb, p.1 < C.fbBufSize * i.n) :
    ∀ p ∈ (mixChannels C bus i).inst.fb, p.1 < C.fbBufSize * i.n := by
  intro p hp
  obtain hold | ⟨c, hc, haddr⟩ := (mixChannels_spec C bus i).1.addrs p hp
  · exact hfb p hold
  · have hcn : (c : Nat) < i.n := mem_channels.mp hc
    calc p.1 = i.fbW * i.n + c := haddr
      _ < (i.fbW + 1) * i.n := by rw [Nat.succ_mul]; omega
      _ ≤ C.fbBufSize * i.n := Nat.mul_le_mul_right _ hW

/-- A canonical memory that lists lanes `1..NB` only (20_memory.md R67, R72). -/
structure BusOk (C : Cfg) (bus : Memory) : Prop where
  wf : Memory.wf bus = true
  addr : ∀ p ∈ bus, 1 ≤ p.1 ∧ p.1 ≤ C.nb

theorem busValid_iff (C : Cfg) (i : Int) : busValid C i = true ↔ 1 ≤ i ∧ i ≤ C.nb :=
  decide_eq_true_iff

theorem BusOk.memWrite {C : Cfg} {bus : Memory} (h : BusOk C bus) {a : Nat}
    (ha : 1 ≤ a ∧ a ≤ C.nb) (v : NumVal) : BusOk C (memWrite bus a v) where
  wf := memWrite_wf a v h.wf
  addr p hp := by
    obtain hnew | hold := mem_memWrite hp
    · rwa [hnew]
    · exact h.addr p hold

theorem BusOk.laneWrite {C : Cfg} {bus : Memory} (h : BusOk C bus) (mode : OutMode) (lane : Int)
    (v : NumVal) : BusOk C (laneWrite C mode lane v bus) := by
  unfold Machine.laneWrite
  split_ifs with hvalid
  · have hlane : 1 ≤ lane.toNat ∧ lane.toNat ≤ C.nb := by
      have := (busValid_iff C lane).mp hvalid
      omega
    cases mode with
    | accumulate => exact h.memWrite hlane _
    | overwrite => exact h.memWrite hlane _
  · exact h

theorem BusOk.outWrite {C : Cfg} {bus : Memory} (h : BusOk C bus) (a : Stereo) :
    BusOk C (outWrite C a bus) := (h.laneWrite _ _ _).laneWrite _ _ _

theorem MemoriesOk.busOk {s : State} (h : MemoriesOk s) : BusOk s.cfg s.bus := ⟨h.bus_wf, h.bus_addr⟩

/-! ### Memories, in every arithmetic -/

theorem memoriesOk_processFrame {s : State} (h : MemoriesOk s) : MemoriesOk (processFrame s) := by
  have hbus : BusOk s.cfg (processFrame s).bus := h.busOk.outWrite _
  obtain ⟨_, _, _, _, l, r, hinst⟩ := processFrame_inst_kept s
  refine ⟨hbus.wf, ?_, ?_, hbus.addr⟩
  · rw [hinst]; exact (mixChannels_spec s.cfg s.bus s.inst).1.wf h.fb_wf
  · rw [hinst]; exact memWrite_wf _ _ (memWrite_wf _ _ h.la_wf)

theorem memoriesOk_hardwareReset {s : State} (h : MemoriesOk s) : MemoriesOk (hardwareReset s) := by
  obtain ⟨-, hfb, hla, -⟩ := hardwareReset_fields s
  exact ⟨h.bus_wf, hfb, hla, h.bus_addr⟩

/-- No move of the host takes a memory out of its canonical form or a lane out of `1..NB`. -/
theorem MoveEffect.memoriesOk {s t : State} (he : MoveEffect s t) (h : MemoriesOk s) :
    MemoriesOk t := by
  cases he with
  | held => exact h
  | constructed n => exact ⟨h.bus_wf, rfl, rfl, h.bus_addr⟩
  | rawStored _ _ | lookaheadSet _ _ | fbDelaySet _ _ | latched _ | rateDriven _ => exact { h with }
  | framed run => exact memoriesOk_processFrame h
  | laneDriven i hvalid v =>
    have hlane : 1 ≤ i ∧ i ≤ s.cfg.nb := by have := (busValid_iff _ _).mp hvalid; omega
    have hbus := h.busOk.memWrite hlane v
    exact ⟨hbus.wf, h.fb_wf, h.la_wf, hbus.addr⟩
  | wasReset => exact memoriesOk_hardwareReset h

/-! ### Integer registers, in every arithmetic -/

theorem clampLookahead_mem {C : Cfg} (hla : 1 ≤ C.laBufSize) (count : Int) :
    1 ≤ clampLookahead C count ∧ clampLookahead C count ≤ C.laBufSize := by
  have := clampi_mem (v := count) (show (1 : Int) ≤ C.laBufSize by omega)
  unfold clampLookahead
  omega

theorem clampFbDelay_mem {C : Cfg} (hfb : 2 ≤ C.fbBufSize) (count : Int) :
    1 ≤ clampFbDelay C count ∧ clampFbDelay C count < C.fbBufSize := by
  have := clampi_mem (v := count) (show (1 : Int) ≤ (C.fbBufSize : Int) - 1 by omega)
  unfold clampFbDelay
  omega

theorem channelCount_mem (n : Raw) : 1 ≤ channelCount n ∧ channelCount n ≤ 8 := by
  have := clampi_mem (v := signed n) (show Config.minCh ≤ Config.maxCh by decide)
  unfold channelCount
  simp only [Config.minCh, Config.maxCh] at this ⊢
  omega

theorem ranges_construct {s : State} (hfb : 2 ≤ s.cfg.fbBufSize) (hla : 1 ≤ s.cfg.laBufSize)
    (n : Raw) : Ranges s.cfg (construct n s).inst where
  n_pos := (channelCount_mem n).1
  n_le := (channelCount_mem n).2
  fbW_lt := Nat.zero_lt_of_lt hfb
  fbDelay_pos := Nat.le_refl 1
  fbDelay_lt := hfb
  laW_lt := hla
  laLen_pos := Nat.le_refl 1
  laLen_le := hla
  fb_addr _ hp := absurd hp List.not_mem_nil
  la_addr _ hp := absurd hp List.not_mem_nil

theorem ranges_processFrame {s : State} (h : Ranges s.cfg s.inst) :
    Ranges s.cfg (processFrame s).inst := by
  obtain ⟨_, _, _, _, l, r, hinst⟩ := processFrame_inst_kept s
  have hlaW := h.laW_lt
  rw [hinst]
  exact { h with
    fbW_lt := Nat.mod_lt _ (Nat.zero_lt_of_lt h.fbW_lt)
    laW_lt := Nat.mod_lt _ (Nat.zero_lt_of_lt h.laW_lt)
    fb_addr := mixChannels_fb_addr h.fbW_lt h.fb_addr
    la_addr := fun p hp => by
      obtain hright | hp := mem_memWrite hp
      · rw [hright, laAddr]; omega
      · obtain hleft | hold := mem_memWrite hp
        · rw [hleft, laAddr]; omega
        · exact h.la_addr p hold }

/-- With rings of the sizes 00_scope.md R11 asks, the integer registers stay in their ranges and the ring
words inside the rings, as long as `S.run` is set. -/
theorem MoveEffect.ranges {s t : State} (he : MoveEffect s t) (hfb : 2 ≤ s.cfg.fbBufSize)
    (hla : 1 ≤ s.cfg.laBufSize) (h : s.inst.run = true → Ranges s.cfg s.inst)
    (ht : t.inst.run = true) : Ranges s.cfg t.inst := by
  cases he with
  | held | rateDriven _ | laneDriven _ _ _ => exact h ht
  | constructed n => exact ranges_construct hfb hla n
  | rawStored run _ | latched run => exact { h run with }
  | lookaheadSet run v =>
    obtain ⟨hpos, hle⟩ := clampLookahead_mem hla (lengthCount (recompute (storeGlobal s _)) v).1
    exact { h run with laLen_pos := hpos, laLen_le := hle }
  | fbDelaySet run v =>
    obtain ⟨hpos, hlt⟩ := clampFbDelay_mem hfb (lengthCount (recompute (storeGlobal s _)) v).1
    exact { h run with fbDelay_pos := hpos, fbDelay_lt := hlt }
  | framed run => exact ranges_processFrame (h run)
  | wasReset => exact absurd ht Bool.false_ne_true

/-! ### Latched values, in exact arithmetic -/

/-- The ranges of the threshold and of the latched targets and depths (10_state.md R58), the part of
`Running` that compares in the order of `NUM`. -/
structure LatchedInRange (C : Cfg) (thr : NumVal) (L : Latched) : Prop where
  thr_between : between (arithOps C.arith) C.vMin thr C.vMax
  tMaster_unit : between (arithOps C.arith) ((arithOps C.arith).ofInt 0) L.tMaster
    ((arithOps C.arith).ofInt 1)
  tFb_unit : ∀ c : Fin 8, between (arithOps C.arith) ((arithOps C.arith).ofInt 0)
    L.chan[c].tFb ((arithOps C.arith).ofInt 1)
  dFb_unit : ∀ c : Fin 8, between (arithOps C.arith) ((arithOps C.arith).ofInt 0)
    L.chan[c].dFb ((arithOps C.arith).ofInt 1)
  dPan_unit : ∀ c : Fin 8, between (arithOps C.arith) ((arithOps C.arith).ofInt 0)
    L.chan[c].dPan ((arithOps C.arith).ofInt 1)
  tPan_range : ∀ c : Fin 8, between (arithOps C.arith) ((arithOps C.arith).ofInt (-100))
    L.chan[c].tPan ((arithOps C.arith).ofInt 100)

theorem running_iff (C : Cfg) (i : Instance) :
    Running C i ↔ Ranges C i ∧ LatchedInRange C i.thr i.latched where
  mp h := ⟨h.toRanges, { h with }⟩
  mpr h := { h.1, h.2 with }

/-- 46_mixengine_frame.md R210, R211: whatever the raw parameters, a latch brings every value into its
range. -/
theorem latchedInRange_latch {C : Cfg} (harith : C.arith = .exactReals) (hwf : cfgWf C = true)
    (i : Instance) : LatchedInRange C (latch C i).thr (latch C i).latched := by
  have hthr := thresh_between (vMin_le_vMax harith hwf)
  constructor <;>
    simp only [latch, Instance.setLatch_thr, Instance.setLatch_latched, latchOf, latchChan, bank8_get,
      arithOps_exact harith, hthr, percent_between, panTarget_between, implies_true]

theorem processFrame_latched (s : State) : (processFrame s).inst.thr = s.inst.thr ∧
    (processFrame s).inst.latched = s.inst.latched := by
  obtain ⟨_, _, _, _, l, r, hinst⟩ := processFrame_inst_kept s
  rw [hinst]
  exact ⟨rfl, rfl⟩

/-- Only a latch writes these values; every other effect leaves them. -/
theorem MoveEffect.latchedInRange {s t : State} (he : MoveEffect s t)
    (harith : s.cfg.arith = .exactReals) (hwf : cfgWf s.cfg = true)
    (h : s.inst.run = true → LatchedInRange s.cfg s.inst.thr s.inst.latched)
    (ht : t.inst.run = true) : LatchedInRange s.cfg t.inst.thr t.inst.latched := by
  cases he with
  | held | rateDriven _ | laneDriven _ _ _ => exact h ht
  | rawStored run _ | lookaheadSet run _ | fbDelaySet run _ => exact h run
  | constructed _ | latched _ => exact latchedInRange_latch harith hwf _
  | framed run =>
    obtain ⟨hthr, hlatched⟩ := processFrame_latched s
    rw [hthr, hlatched]
    exact h run
  | wasReset => exact absurd ht Bool.false_ne_true

/-! ### The invariant -/

theorem MoveEffect.inv {s t : State} (he : MoveEffect s t) (harith : s.cfg.arith = .exactReals)
    (hwf : cfgWf s.cfg = true) (h : Inv s) : Inv t where
  memories := he.memoriesOk h.memories
  running ht := by
    obtain ⟨hfb, hla, -⟩ := (cfgWf_iff s.cfg).mp hwf
    rw [he.cfg_eq, running_iff]
    exact ⟨he.ranges hfb hla (fun run => (h.running run).toRanges) ht,
      he.latchedInRange harith hwf (fun run => ((running_iff _ _).mp (h.running run)).2) ht⟩

/-- The invariant says nothing of the waiting moves of the host. -/
theorem inv_setPort {s : State} (h : Inv s) (q : List HostMove) : Inv (s.setPort q) where
  memories := { h.memories with }
  running := h.running

/-- Settles O26: a step takes a move off the port, and each effect of a move keeps the invariant. -/
theorem stepKeepsStateInvariant : Obligations.StepKeepsStateInvariant := by
  intro s t harith hwf hinv hstep
  obtain ⟨q, heffect⟩ := step_effect hstep
  exact ⟨heffect.inv harith hwf (inv_setPort hinv q), heffect.cfg_eq⟩

end Sys2Proof.Machine
end

section
/-! PROOFS. Which steps complete, what they keep of the memories (20_memory.md R60, R67, R70, R72), and
which commands write which register. -/

namespace Sys2Proof.Machine

/-! ### What every step keeps -/

/-- The memories are not the waiting moves of the host. -/
theorem memoriesOk_setPort {s : State} (h : MemoriesOk s) (q : List HostMove) :
    MemoriesOk (s.setPort q) := { h with }

/-- Settles O28: a step takes a move off the port, and each effect of a move keeps the memories canonical
and the integer registers in their ranges. -/
theorem stepKeepsMemories : Obligations.StepKeepsMemories := by
  intro s t hmem hstep
  obtain ⟨q, heffect⟩ := step_effect hstep
  have hcfg : t.cfg = s.cfg := heffect.cfg_eq
  refine ⟨heffect.memoriesOk (memoriesOk_setPort hmem q), hcfg, fun hfb hla hranges hrun => ?_⟩
  rw [hcfg]
  exact heffect.ranges hfb hla hranges hrun

/-! ### Which steps complete -/

/-- `MoveEffect` for commands, with the command that has the effect. A raw parameter is stored by
thirteen of the `WRP` commands; every other effect but `held` is one command's. -/
inductive CommandEffect (s : State) : Instr → State → Prop where
  | held (i : Instr) : CommandEffect s i s
  | constructed (n : Raw) : CommandEffect s (.construct n) (construct n s)
  | rawStored (i : Instr) (f : RawParams → RawParams) : CommandEffect s i (storeGlobal s f)
  | lookaheadSet (v : Raw) : CommandEffect s (.wrpLookahead v) (setLookahead v s)
  | fbDelaySet (v : Raw) : CommandEffect s (.wrpFbDelay v) (setFeedbackDelay v s)
  | latched : CommandEffect s .blkstart (s.setInst (latch s.cfg s.inst))
  | framed : CommandEffect s .frame (processFrame s)

theorem whenRunning_completes {i : Instr} {s : State} {f : State → State}
    (hf : CommandEffect s i (f s)) : ∃ t, whenRunning s f = .next t ∧ CommandEffect s i t := by
  obtain ⟨-, heq⟩ | ⟨-, heq⟩ := whenRunning_cases s f
  · exact ⟨f s, heq, hf⟩
  · exact ⟨s, heq, .held i⟩

theorem storeChannel_completes (i : Instr) (s : State) (c : ChField) (f : ChanRaw → ChanRaw) :
    ∃ t, storeChannel s c f = .next t ∧ CommandEffect s i t := by
  obtain ⟨k, -, -, heq⟩ | heq := storeChannel_cases s c f
  · exact ⟨_, heq, .rawStored i _⟩
  · exact ⟨s, heq, .held i⟩

/-- 60_exceptions.md R260, R266: no command stops the machine; each has its own effect or none. -/
theorem exec_completes (i : Instr) (s : State) : ∃ t, exec i s = .next t ∧ CommandEffect s i t := by
  cases i with
  | nop => exact ⟨s, rfl, .held _⟩
  | construct n => exact ⟨_, rfl, .constructed n⟩
  | wrpOutL v | wrpOutR v | wrpOutMode v | wrpMaster v | wrpSat v | wrpSquash v =>
    simp only [exec_wrpOutL, exec_wrpOutR, exec_wrpOutMode, exec_wrpMaster, exec_wrpSat,
      exec_wrpSquash]
    exact whenRunning_completes (.rawStored _ _)
  | wrpLookahead v => exact whenRunning_completes (.lookaheadSet v)
  | wrpFbDelay v => exact whenRunning_completes (.fbDelaySet v)
  | wrpInBus c v | wrpFb c v | wrpFbCvBus c v | wrpFbCvDepth c v | wrpPan c v | wrpPanCvBus c v
  | wrpPanCvDepth c v =>
    simp only [exec_wrpInBus, exec_wrpFb, exec_wrpFbCvBus, exec_wrpFbCvDepth, exec_wrpPan,
      exec_wrpPanCvBus, exec_wrpPanCvDepth]
    exact storeChannel_completes _ s c _
  | blkstart =>
    rw [exec_blkstart]
    exact whenRunning_completes .latched
  | frame => exact whenRunning_completes .framed

/-- 30_encoding.md R97 (log 8): nor does a reserved word. -/
theorem acceptWord_completes (s : State) (w : Word) : ∃ t, acceptWord s w = .next t := by
  cases hdec : decode w with
  | command i =>
    obtain ⟨t, ht, -⟩ := exec_completes i s
    exact ⟨t, (acceptWord_command hdec).trans ht⟩
  | reserved why => exact ⟨s, acceptWord_reserved hdec⟩

/-- All a write of the host to a bus lane can do (20_memory.md R72, log 16). -/
theorem driveLane_cases (s : State) (i : Nat) (v : NumVal) :
    ((1 ≤ i ∧ i ≤ s.cfg.nb) ∧ driveLane s i v = .next (s.setBus (memWrite s.bus i v))) ∨
    ((i = 0 ∨ s.cfg.nb < i) ∧ driveLane s i v = .fault (.noSuchLane i)) := by
  by_cases hvalid : busValid s.cfg i = true
  · have := (busValid_iff _ _).mp hvalid
    exact .inl ⟨by omega, if_pos hvalid⟩
  · have := mt (busValid_iff _ _).mpr hvalid
    exact .inr ⟨by omega, if_neg hvalid⟩

/-- A move of the host completes, unless it writes a lane there is not. -/
theorem hostMove_completes_or_missing (m : HostMove) (s : State) : (∃ t, hostMove m s = .next t) ∨
    ∃ i v, m = .setLane i v ∧ (i = 0 ∨ s.cfg.nb < i) ∧ hostMove m s = .fault (.noSuchLane i) := by
  cases m with
  | command w => exact .inl (acceptWord_completes s w)
  | setRate f => exact .inl ⟨_, rfl⟩
  | setLane i v =>
    obtain ⟨-, heq⟩ | ⟨hmissing, heq⟩ := driveLane_cases s i v
    · exact .inl ⟨_, heq⟩
    · exact .inr ⟨i, v, rfl, hmissing, heq⟩
  | assertReset => exact .inl ⟨_, rfl⟩

/-- Settles O17: a step is held, or is the oldest move of the host. -/
theorem stepStopsOnlyAtMissingLane : Obligations.StepStopsOnlyAtMissingLane := by
  intro s
  cases hport : s.port with
  | nil => exact .inl ⟨s, step_idle hport⟩
  | cons m rest =>
    rw [step_move hport]
    obtain hnext | ⟨i, v, rfl, hmissing, hfault⟩ := hostMove_completes_or_missing m (s.setPort rest)
    · exact .inl hnext
    · exact .inr ⟨i, v, rest, rfl, hmissing, hfault⟩

/-! ### The writers of each register -/

/-- 46_mixengine_frame.md R200: what a frame leaves of the registers. -/
theorem processFrame_settings (s : State) : (processFrame s).inst.run = s.inst.run ∧
    (processFrame s).inst.n = s.inst.n ∧ (processFrame s).inst.fs = s.inst.fs ∧
    (processFrame s).inst.coef = s.inst.coef ∧ (processFrame s).inst.fbDelay = s.inst.fbDelay ∧
    (processFrame s).inst.laLen = s.inst.laLen := by
  obtain ⟨_, _, _, _, l, r, hinst⟩ := processFrame_inst_kept s
  rw [hinst]
  exact ⟨rfl, rfl, rfl, rfl, rfl, rfl⟩

/-- The only next state of a command is its effect. -/
theorem exec_commandEffect {i : Instr} {s t : State} (h : exec i s = .next t) :
    CommandEffect s i t := by
  obtain ⟨u, hu, heffect⟩ := exec_completes i s
  cases hu.symm.trans h
  exact heffect

/-- Settles O18: each effect leaves what its command does not write. -/
theorem writersOfEachRegister : Obligations.WritersOfEachRegister := by
  intro i s t h
  cases exec_commandEffect h with
  | held | rawStored =>
    exact ⟨fun _ => rfl, fun _ _ => ⟨rfl, rfl, rfl, rfl, rfl, rfl, rfl, rfl⟩, fun _ _ => ⟨rfl, rfl⟩,
      fun _ => ⟨rfl, rfl⟩, fun _ _ _ => ⟨rfl, rfl, rfl⟩⟩
  | constructed n =>
    exact ⟨fun _ => rfl, fun _ hc => absurd rfl (hc n), fun _ hc => absurd rfl (hc n),
      fun hc => absurd rfl (hc n), fun hc => absurd rfl (hc n)⟩
  | lookaheadSet v =>
    exact ⟨fun _ => rfl, fun _ _ => ⟨rfl, rfl, rfl, rfl, rfl, rfl, rfl, rfl⟩, fun _ _ => ⟨rfl, rfl⟩,
      fun _ => ⟨rfl, rfl⟩, fun _ hl _ => absurd rfl (hl v)⟩
  | fbDelaySet v =>
    exact ⟨fun _ => rfl, fun _ _ => ⟨rfl, rfl, rfl, rfl, rfl, rfl, rfl, rfl⟩, fun _ _ => ⟨rfl, rfl⟩,
      fun _ => ⟨rfl, rfl⟩, fun _ _ hd => absurd rfl (hd v)⟩
  | latched =>
    exact ⟨fun _ => rfl, fun _ _ => ⟨rfl, rfl, rfl, rfl, rfl, rfl, rfl, rfl⟩,
      fun hb => absurd rfl hb, fun _ => ⟨rfl, rfl⟩, fun _ _ _ => ⟨rfl, rfl, rfl⟩⟩
  | framed =>
    obtain ⟨hthr, hlatched⟩ := processFrame_latched s
    obtain ⟨hrun, hn, hfs, hcoef, -, -⟩ := processFrame_settings s
    exact ⟨fun hf => absurd rfl hf, fun hf => absurd rfl hf, fun _ _ => ⟨hlatched, hthr⟩,
      fun _ => ⟨hn, hrun⟩, fun _ _ _ => ⟨hfs, hcoef, rfl⟩⟩

end Sys2Proof.Machine
end

section
/-! PROOFS. What a frame does not read: the raw parameters (20_memory.md R75), and every lane of the bus
that none of its channels names (R67, 41_cv_modulation.md R135). -/

namespace Sys2Proof.Machine

/-! ### The raw parameters -/

/-- A signal with other raw parameters beside it. -/
def Stereo.setRaw (a : Stereo) (p : RawParams) : Stereo := ⟨a.inst.setRaw p, a.l, a.r⟩

theorem mixChannel_setRaw (C : Cfg) (bus : Memory) (a : Stereo) (c : Fin 8) (p : RawParams) :
    mixChannel C bus (a.setRaw p) c = (mixChannel C bus a c).setRaw p := rfl

theorem mixChannels_setRaw (C : Cfg) (bus : Memory) (i : Instance) (p : RawParams) :
    mixChannels C bus (i.setRaw p) = (mixChannels C bus i).setRaw p := by
  unfold mixChannels
  exact List.foldl_hom (init := ⟨i, _, _⟩) (fun a : Stereo => a.setRaw p)
    fun a c => mixChannel_setRaw C bus a c p

theorem preLimit_setRaw (C : Cfg) (bus : Memory) (i : Instance) (p : RawParams) :
    preLimit C bus (i.setRaw p) = (preLimit C bus i).setRaw p := by
  unfold preLimit
  rw [mixChannels_setRaw]
  rfl

theorem limit_setRaw (C : Cfg) (a : Stereo) (p : RawParams) :
    limit C (a.setRaw p) = (limit C a).setRaw p := rfl

/-- A frame commutes with a change of the raw parameters. -/
theorem processFrame_setRaw (s : State) (p : RawParams) :
    processFrame (s.setInst (s.inst.setRaw p)) =
      (processFrame s).setInst ((processFrame s).inst.setRaw p) := by
  unfold processFrame
  simp only [State.setInst_cfg, State.setInst_bus, State.setInst_inst, preLimit_setRaw, limit_setRaw]
  rfl

/-- Settles O33: while `S.run` is set `FRAME` is `processFrame`, which commutes with the change. -/
theorem frameIgnoresRawParameters : Obligations.FrameIgnoresRawParameters := by
  intro s p hrun
  refine ⟨processFrame s, execFrame_eq hrun, ?_⟩
  rw [← processFrame_setRaw]
  exact execFrame_eq (s := s.setInst (s.inst.setRaw p)) hrun

/-! ### The lanes of the bus -/

/-- Two buses read the same on the valid lanes a channel's parameters name. -/
structure LanesAgree (C : Cfg) (L : ChanLatched) (bus bus' : Memory) : Prop where
  inBus : busValid C L.inBus = true → memRead bus' L.inBus.toNat = memRead bus L.inBus.toNat
  fbCvBus : busValid C L.fbCvBus = true → memRead bus' L.fbCvBus.toNat = memRead bus L.fbCvBus.toNat
  panCvBus : busValid C L.panCvBus = true →
    memRead bus' L.panCvBus.toNat = memRead bus L.panCvBus.toNat

theorem lanesAgree_of_forall_mem {C : Cfg} {L : ChanLatched} {bus bus' : Memory}
    (h : ∀ lane ∈ [L.inBus, L.fbCvBus, L.panCvBus], 1 ≤ lane → lane ≤ C.nb →
      memRead bus' lane.toNat = memRead bus lane.toNat) : LanesAgree C L bus bus' := by
  have hlane : ∀ lane ∈ [L.inBus, L.fbCvBus, L.panCvBus], busValid C lane = true →
      memRead bus' lane.toNat = memRead bus lane.toNat := fun lane hmem hvalid => by
    obtain ⟨hpos, hle⟩ := (busValid_iff C lane).mp hvalid
    exact h lane hmem hpos hle
  exact ⟨hlane _ (by simp), hlane _ (by simp), hlane _ (by simp)⟩

section
variable {C : Cfg} {bus bus' : Memory} {c : Fin 8} {i : Instance}

theorem channelWord_bus_congr (h : LanesAgree C i.latched.chan[c] bus bus') :
    channelWord C bus' c i = channelWord C bus c i := by
  have hinput : input C bus' c i = input C bus c i := if_ctx_congr Iff.rfl h.inBus fun _ => rfl
  simp only [channelWord, hinput]
  split_ifs with hvalid
  · rw [h.fbCvBus hvalid]
  · rfl

theorem channelGains_bus_congr (h : LanesAgree C i.latched.chan[c] bus bus') :
    channelGains C bus' c i = channelGains C bus c i := by
  simp only [channelGains]
  split_ifs with hvalid
  · rw [h.panCvBus hvalid]
  · rfl

/-- A channel's turn reads the bus on its own valid lanes only. -/
theorem channel_bus_congr (h : LanesAgree C i.latched.chan[c] bus bus') :
    channel C bus' c i = channel C bus c i := by
  rw [channel_eq, channel_eq, channelWord_bus_congr h, channelGains_bus_congr h]

end

theorem mixChannel_latched (C : Cfg) (bus : Memory) (a : Stereo) (c : Fin 8) :
    (mixChannel C bus a c).inst.latched = a.inst.latched := rfl

theorem mixLoop_bus_congr {C : Cfg} {bus bus' : Memory} {l : List (Fin 8)} {a : Stereo}
    (h : ∀ c ∈ l, LanesAgree C a.inst.latched.chan[c] bus bus') :
    l.foldl (mixChannel C bus') a = l.foldl (mixChannel C bus) a := by
  induction l generalizing a with
  | nil => rfl
  | cons c l ih =>
    have hturn : mixChannel C bus' a c = mixChannel C bus a c := by
      simp only [mixChannel, channel_bus_congr (h c List.mem_cons_self)]
    rw [List.foldl_cons, List.foldl_cons, hturn]
    exact ih fun d hd => h d (List.mem_cons_of_mem c hd)

/-- The mix depends on the bus through the valid lanes of the channels `0 .. S.N-1` only. -/
theorem preLimit_bus_congr {C : Cfg} {bus bus' : Memory} {i : Instance}
    (h : ∀ c ∈ channels i, LanesAgree C i.latched.chan[c] bus bus') :
    preLimit C bus' i = preLimit C bus i := by
  unfold preLimit mixChannels
  rw [mixLoop_bus_congr h]

/-- Settles O34: both frames limit the same mix. -/
theorem frameReadsOnlyNamedLanes : Obligations.FrameReadsOnlyNamedLanes := by
  intro s bus hrun hlanes
  have hmix : preLimit s.cfg bus s.inst = preLimit s.cfg s.bus s.inst :=
    preLimit_bus_congr fun c hc => lanesAgree_of_forall_mem (hlanes c (mem_channels.mp hc))
  refine ⟨processFrame s, processFrame (s.setBus bus), execFrame_eq hrun,
    execFrame_eq (s := s.setBus bus) hrun, ?_⟩
  exact congrArg (fun a => (limit s.cfg a).inst) hmix

end Sys2Proof.Machine
end

section
/-! PROOFS. The two rings as delay lines (20_memory.md R62, R63, R65, R66): which slot a read addresses,
and that a slot keeps its words until the write index comes back to it. -/

namespace Sys2Proof.Machine

/-! ### The slots of a ring -/

section
variable {size w d : Nat}

theorem ringRead_of_le (hw : w < size) (h : d ≤ w) : ringRead size w d = w - d := by
  have hsum : w + size - d = w - d + size := by omega
  rw [ringRead, hsum, Nat.add_mod_right, Nat.mod_eq_of_lt (by omega)]

theorem ringRead_of_lt (h : w < d) (hd : d ≤ size) : ringRead size w d = w + size - d :=
  Nat.mod_eq_of_lt (by omega)

/-- A whole ring back is the write slot itself. -/
theorem ringRead_whole (hw : w < size) : ringRead size w size = w := by
  rw [ringRead_of_lt hw le_rfl, Nat.add_sub_cancel]

/-- The read slot is `d` slots behind: `d` frames after slot `w` was the write slot, it is read. -/
theorem ringRead_add_mod (hw : w < size) (hd : d ≤ size) :
    ringRead size ((w + d) % size) d = w := by
  obtain h | h := Nat.lt_or_ge (w + d) size
  · rw [Nat.mod_eq_of_lt h, ringRead_of_le h (by omega)]
    omega
  · have hmod : (w + d) % size = w + d - size := by
      rw [Nat.mod_eq_sub_mod h, Nat.mod_eq_of_lt (by omega)]
    obtain hwhole | hpart := Nat.eq_or_lt_of_le hd
    · rw [hmod, hwhole, Nat.add_sub_cancel, ringRead_whole hw]
    · rw [hmod, ringRead_of_lt (by omega) hd]
      omega

/-- The write slot does not come back before the ring is through. -/
theorem add_mod_ne (hw : w < size) (hpos : 1 ≤ d) (hd : d < size) : (w + d) % size ≠ w := by
  obtain h | h := Nat.lt_or_ge (w + d) size
  · rw [Nat.mod_eq_of_lt h]
    omega
  · rw [Nat.mod_eq_sub_mod h, Nat.mod_eq_of_lt (by omega)]
    omega

end

/-- Settles O40: the read slot is `w - d` up to the write index, and `w + size - d` beyond it. -/
theorem ringReadSlots : Obligations.RingReadSlots := by
  intro size w d hw hpos hd
  constructor
  · have hcast : ((w + size - d : Nat) : Int) = (w : Int) - d + size := by omega
    rw [ringRead, Int.natCast_mod, hcast, Int.add_emod_right]
  · obtain h | h := Nat.lt_or_ge w d
    · rw [ringRead_of_lt h hd]
      omega
    · rw [ringRead_of_le hw h]
      omega

/-! ### The write slot of the lookahead ring -/

/-- 45_limiter.md R181: a side of the write slot reads as the sample written to it. -/
theorem memRead_laSlot {m : Memory} (h : Memory.wf m = true) (slot : Nat) (l r : NumVal) :
    memRead (memWrite (memWrite m (laAddr slot 0) l) (laAddr slot 1) r) (laAddr slot 0) = l ∧
    memRead (memWrite (memWrite m (laAddr slot 0) l) (laAddr slot 1) r) (laAddr slot 1) = r := by
  have hsides : laAddr slot 0 ≠ laAddr slot 1 := by simp [laAddr]
  exact ⟨(memRead_memWrite_other _ r hsides).trans (memRead_memWrite_same _ l h),
    memRead_memWrite_same _ r (memWrite_wf _ l h)⟩

/-- Every other slot keeps its two words. -/
theorem memRead_laSlot_other (m : Memory) {slot slot' side : Nat} (hside : side < 2)
    (h : slot' ≠ slot) (l r : NumVal) :
    memRead (memWrite (memWrite m (laAddr slot 0) l) (laAddr slot 1) r) (laAddr slot' side) =
      memRead m (laAddr slot' side) := by
  have hleft : laAddr slot' side ≠ laAddr slot 0 := by unfold laAddr; omega
  have hright : laAddr slot' side ≠ laAddr slot 1 := by unfold laAddr; omega
  rw [memRead_memWrite_other _ r hright, memRead_memWrite_other _ l hleft]

/-- The delayed sample of a side, where the read slot is not the write slot. -/
theorem laRead_laWrite_other {C : Cfg} {i : Instance} {side : Nat} (hside : side < 2)
    (h : ringRead C.laBufSize i.laW i.laLen ≠ i.laW) (l r : NumVal) :
    laRead C side (laWrite l r i) =
      memRead i.la (laAddr (ringRead C.laBufSize i.laW i.laLen) side) :=
  memRead_laSlot_other i.la hside h l r

/-- Settles O37: the read slot is the write slot. -/
theorem wholeBufferLookaheadHasNoDelay : Obligations.WholeBufferLookaheadHasNoDelay := by
  intro C i x y hwf hW hlen
  have hslot : ringRead C.laBufSize i.laW i.laLen = i.laW := by rw [hlen, ringRead_whole hW]
  obtain ⟨hleft, hright⟩ := memRead_laSlot hwf i.laW x y
  unfold laRead
  simp only [laWrite, Instance.setLa_la, Instance.setLa_laW, Instance.setLa_laLen, hslot]
  exact ⟨hleft, hright⟩

/-! ### One frame on the rings -/

/-- 42_feedback_dcblock.md R147, 45_limiter.md R189: both write indices advance by one. -/
theorem processFrame_indices (s : State) :
    (processFrame s).inst.fbW = ringNext s.cfg.fbBufSize s.inst.fbW ∧
    (processFrame s).inst.laW = ringNext s.cfg.laBufSize s.inst.laW := by
  obtain ⟨_, _, _, _, l, r, hinst⟩ := processFrame_inst_kept s
  rw [hinst]
  exact ⟨rfl, rfl⟩

/-- 42_feedback_dcblock.md R145: a frame writes the feedback ring in its write slot only. -/
theorem processFrame_fb_other {s : State} {slot c : Nat} (hc : c < s.inst.n)
    (hslot : slot ≠ s.inst.fbW) :
    memRead (processFrame s).inst.fb (slot * s.inst.n + c) =
      memRead s.inst.fb (slot * s.inst.n + c) := by
  obtain ⟨_, _, _, _, l, r, hinst⟩ := processFrame_inst_kept s
  rw [hinst]
  exact (mixChannels_spec s.cfg s.bus s.inst).1.words _ fun d hd =>
    slot_ne hc (mem_channels.mp hd) hslot

/-- 45_limiter.md R181: a frame writes the mix after master level to the lookahead ring's write
slot. -/
theorem processFrame_la (s : State) : (processFrame s).inst.la =
    memWrite (memWrite s.inst.la (laAddr s.inst.laW 0) (preLimit s.cfg s.bus s.inst).l)
      (laAddr s.inst.laW 1) (preLimit s.cfg s.bus s.inst).r := by
  have hrest := (mixChannels_spec s.cfg s.bus s.inst).1.rest
  have hla : (mixChannels s.cfg s.bus s.inst).inst.la = s.inst.la := by rw [hrest]
  have hlaW : (mixChannels s.cfg s.bus s.inst).inst.laW = s.inst.laW := by rw [hrest]
  simp only [processFrame_inst, hla, hlaW]

/-! ### Frames in a row -/

/-- The state after a frame for each of the host's buses. -/
def runFrames (bs : List Memory) (s : State) : State :=
  bs.foldl (fun s b => processFrame (s.setBus b)) s

@[simp] theorem runFrames_nil (s : State) : runFrames [] s = s := rfl

@[simp] theorem runFrames_cons (b : Memory) (bs : List Memory) (s : State) :
    runFrames (b :: bs) s = runFrames bs (processFrame (s.setBus b)) := rfl

/-- While `S.run` is set every frame of a run completes. -/
theorem frames_eq_runFrames {bs : List Memory} {s : State} (hrun : s.inst.run = true) :
    frames bs s = some (runFrames bs s) := by
  induction bs generalizing s with
  | nil => rfl
  | cons b bs ih =>
    have hnext : exec .frame (s.setBus b) = .next (processFrame (s.setBus b)) := execFrame_eq hrun
    have hrun' : (processFrame (s.setBus b)).inst.run = true :=
      (processFrame_settings (s.setBus b)).1.trans hrun
    simp only [frames, hnext, runFrames_cons, ih hrun']

theorem runFrames_settings (bs : List Memory) (s : State) : (runFrames bs s).cfg = s.cfg ∧
    (runFrames bs s).inst.n = s.inst.n ∧ (runFrames bs s).inst.fbDelay = s.inst.fbDelay ∧
    (runFrames bs s).inst.laLen = s.inst.laLen := by
  induction bs generalizing s with
  | nil => exact ⟨rfl, rfl, rfl, rfl⟩
  | cons b bs ih =>
    obtain ⟨-, hn, -, -, hfbDelay, hlaLen⟩ := processFrame_settings (s.setBus b)
    obtain ⟨hcfg, hn', hfbDelay', hlaLen'⟩ := ih (processFrame (s.setBus b))
    exact ⟨hcfg, hn'.trans hn, hfbDelay'.trans hfbDelay, hlaLen'.trans hlaLen⟩

theorem runFrames_concat (bs : List Memory) (b : Memory) (s : State) :
    runFrames (bs ++ [b]) s = processFrame ((runFrames bs s).setBus b) := by
  simp [runFrames]

/-- A write index that moves on by one slot with every frame. -/
theorem runFrames_index {s : State} {size : Nat} (index : Instance → Nat)
    (hnext : ∀ t : State, t.cfg = s.cfg →
      index (processFrame t).inst = ringNext size (index t.inst))
    (hlt : index s.inst < size) (bs : List Memory) :
    index (runFrames bs s).inst = (index s.inst + bs.length) % size := by
  induction bs using List.reverseRecOn with
  | nil => exact (Nat.mod_eq_of_lt hlt).symm
  | append_singleton bs b ih =>
    rw [runFrames_concat, hnext ((runFrames bs s).setBus b) (runFrames_settings bs s).1,
      State.setBus_inst, ih, ringNext, Nat.mod_add_mod, List.length_append, List.length_singleton,
      Nat.add_assoc]

theorem runFrames_fbW {s : State} (hW : s.inst.fbW < s.cfg.fbBufSize) (bs : List Memory) :
    (runFrames bs s).inst.fbW = (s.inst.fbW + bs.length) % s.cfg.fbBufSize :=
  runFrames_index Instance.fbW (fun t hcfg => hcfg ▸ (processFrame_indices t).1) hW bs

theorem runFrames_laW {s : State} (hW : s.inst.laW < s.cfg.laBufSize) (bs : List Memory) :
    (runFrames bs s).inst.laW = (s.inst.laW + bs.length) % s.cfg.laBufSize :=
  runFrames_index Instance.laW (fun t hcfg => hcfg ▸ (processFrame_indices t).2) hW bs

/-- What the first frame of a run leaves is there at its end, if no later frame changes it. -/
theorem runFrames_kept {α : Type} (word : State → α) {s : State} {b : Memory} (rest : List Memory)
    (hkept : ∀ pre b', pre.length < rest.length →
      word (processFrame ((runFrames (b :: pre) s).setBus b')) = word (runFrames (b :: pre) s)) :
    word (runFrames (b :: rest) s) = word (runFrames [b] s) := by
  induction rest using List.reverseRecOn with
  | nil => rfl
  | append_singleton rest b' ih =>
    rw [← List.cons_append, runFrames_concat, hkept rest b' (by simp)]
    exact ih fun pre b'' hlen => hkept pre b'' (by simp only [List.length_append]; omega)

/-- A slot of the feedback ring keeps what a frame wrote there for as many frames as the ring has other
slots. -/
theorem runFrames_fb_slot {s : State} {b : Memory} {rest : List Memory} {c : Nat}
    (hc : c < s.inst.n) (hlen : rest.length + 1 < s.cfg.fbBufSize)
    (hW : s.inst.fbW < s.cfg.fbBufSize) :
    memRead (runFrames (b :: rest) s).inst.fb (s.inst.fbW * s.inst.n + c) =
      memRead (runFrames [b] s).inst.fb (s.inst.fbW * s.inst.n + c) := by
  refine runFrames_kept (fun t => memRead t.inst.fb (s.inst.fbW * s.inst.n + c)) rest
    fun pre b' hpre => ?_
  obtain ⟨-, hn, -⟩ := runFrames_settings (b :: pre) s
  have hslot : s.inst.fbW ≠ (runFrames (b :: pre) s).inst.fbW := by
    rw [runFrames_fbW hW]
    exact (add_mod_ne hW (by simp) (by simp only [List.length_cons]; omega)).symm
  have hother := processFrame_fb_other (s := (runFrames (b :: pre) s).setBus b') (hn.symm ▸ hc) hslot
  rwa [State.setBus_inst, hn] at hother

/-- A slot of the lookahead ring, likewise. -/
theorem runFrames_la_slot {s : State} {b : Memory} {rest : List Memory} {side : Nat}
    (hside : side < 2) (hlen : rest.length + 1 < s.cfg.laBufSize)
    (hW : s.inst.laW < s.cfg.laBufSize) :
    memRead (runFrames (b :: rest) s).inst.la (laAddr s.inst.laW side) =
      memRead (runFrames [b] s).inst.la (laAddr s.inst.laW side) := by
  refine runFrames_kept (fun t => memRead t.inst.la (laAddr s.inst.laW side)) rest
    fun pre b' hpre => ?_
  have hslot : s.inst.laW ≠ (runFrames (b :: pre) s).inst.laW := by
    rw [runFrames_laW hW]
    exact (add_mod_ne hW (by simp) (by simp only [List.length_cons]; omega)).symm
  rw [processFrame_la]
  exact memRead_laSlot_other _ hside hslot _ _

/-- Settles O35: after `S.fbDelay` frames the read slot is the first frame's write slot, and no frame in
between has written it. -/
theorem feedbackComesBackAfterDelay : Obligations.FeedbackComesBackAfterDelay := by
  intro s b rest c hrun hc hW hpos hlt hlen
  refine ⟨runFrames [b] s, runFrames (b :: rest) s, frames_eq_runFrames hrun,
    frames_eq_runFrames hrun, ?_⟩
  obtain ⟨hcfg, hn, hdelay, -⟩ := runFrames_settings (b :: rest) s
  have hslot : ringRead s.cfg.fbBufSize (runFrames (b :: rest) s).inst.fbW s.inst.fbDelay =
      s.inst.fbW := by
    rw [runFrames_fbW hW, List.length_cons, hlen]
    exact ringRead_add_mod hW hlt.le
  rw [fbTap, fbAddr, hcfg, hn, hdelay, hslot]
  exact runFrames_fb_slot hc (hlen ▸ hlt) hW

/-- 45_limiter.md R182, one side: after `S.laLen` frames the read slot is the first frame's write slot,
and neither a frame in between nor the sample that enters now has written it. -/
theorem laRead_after_laLen {s : State} (b : Memory) {rest : List Memory} {side : Nat}
    (hside : side < 2) (hW : s.inst.laW < s.cfg.laBufSize) (hpos : 1 ≤ s.inst.laLen)
    (hlt : s.inst.laLen < s.cfg.laBufSize) (hlen : rest.length + 1 = s.inst.laLen) (x y : NumVal) :
    laRead (runFrames (b :: rest) s).cfg side (laWrite x y (runFrames (b :: rest) s).inst) =
      memRead (runFrames [b] s).inst.la (laAddr s.inst.laW side) := by
  obtain ⟨hcfg, -, -, hlaLen⟩ := runFrames_settings (b :: rest) s
  have hnow : (runFrames (b :: rest) s).inst.laW =
      (s.inst.laW + s.inst.laLen) % s.cfg.laBufSize := by
    rw [runFrames_laW hW, List.length_cons, hlen]
  have hslot : ringRead s.cfg.laBufSize (runFrames (b :: rest) s).inst.laW s.inst.laLen =
      s.inst.laW := by
    rw [hnow]
    exact ringRead_add_mod hW hlt.le
  have hother : s.inst.laW ≠ (runFrames (b :: rest) s).inst.laW := by
    rw [hnow]
    exact (add_mod_ne hW hpos hlt).symm
  rw [hcfg, laRead_laWrite_other hside (by rwa [hlaLen, hslot]), hlaLen, hslot]
  exact runFrames_la_slot hside (hlen ▸ hlt) hW

/-- Settles O36: the slot the first frame wrote holds its mix, and comes back after `S.laLen` frames. -/
theorem mixLeavesAfterLookahead : Obligations.MixLeavesAfterLookahead := by
  intro s b rest x y hrun hwf hW hpos hlt hlen
  refine ⟨runFrames (b :: rest) s, frames_eq_runFrames hrun, ?_⟩
  rw [laRead_after_laLen b (side := 0) (by decide) hW hpos hlt hlen,
    laRead_after_laLen b (side := 1) (by decide) hW hpos hlt hlen,
    runFrames_cons, runFrames_nil, processFrame_la]
  exact memRead_laSlot hwf s.inst.laW _ _

end Sys2Proof.Machine
end

section
/-! PROOFS. Decoding and encoding (30_encoding.md R91 to R97, R99): the decoder on a word composed of its
four fields, one equation for each opcode, and from these the round trips, the reserved words, and the
steps that run no command. -/

namespace Sys2Proof.Machine

/-! ### The decoder by opcode -/

theorem exists_fields (w : Word) : ∃ op ch pid imm, w = commandWord op ch pid imm :=
  ⟨_, _, _, _, (commandWord_fields w).symm⟩

/-- `decode` tests a word of format `Z` on its 28 low bits at once: the three fields below `op`. -/
theorem lowBits_eq_zero_iff (w : Word) :
    w.extractLsb' 0 28 = 0 ↔ chField w = 0 ∧ pidField w = 0 ∧ immField w = 0 := by
  simp only [chField, pidField, immField, ← BitVec.toNat_inj, BitVec.extractLsb'_toNat,
    BitVec.ofNat_eq_ofNat, BitVec.toNat_ofNat, Nat.shiftRight_eq_div_pow]
  omega

/-- The rows of 30_encoding.md R93 whose format is `Z` (R92): they use no field but `op`. -/
inductive FormatZ : BitVec 4 → Instr → Prop where
  | nop : FormatZ 0 .nop
  | blkstart : FormatZ 3 .blkstart
  | frame : FormatZ 4 .frame

theorem FormatZ.opcode {op : BitVec 4} {i : Instr} (h : FormatZ op i) :
    op.toNat = 0 ∨ op.toNat = 3 ∨ op.toNat = 4 := by
  cases h <;> decide

theorem FormatZ.wellFormed_encode {op : BitVec 4} {i : Instr} (h : FormatZ op i) :
    wellFormed i = true ∧ encode i = commandWord op 0 0 0 := by
  cases h <;> exact ⟨rfl, rfl⟩

/-- The opcode map (30_encoding.md R93) by formats. -/
theorem opcode_cases (op : BitVec 4) :
    (∃ i, FormatZ op i) ∨ op = 1 ∨ op = 2 ∨ 5 ≤ op.toNat := by
  have hop : op = 0 ∨ op = 1 ∨ op = 2 ∨ op = 3 ∨ op = 4 ∨ 5 ≤ op.toNat := by
    revert op
    decide
  obtain rfl | hC | hW | rfl | rfl | hfree := hop
  · exact .inl ⟨_, .nop⟩
  · exact .inr (.inl hC)
  · exact .inr (.inr (.inl hW))
  · exact .inl ⟨_, .blkstart⟩
  · exact .inl ⟨_, .frame⟩
  · exact .inr (.inr (.inr hfree))

section
variable (ch : ChField) (pid : BitVec 8) (imm : Raw)

theorem decode_formatZ {op : BitVec 4} {i : Instr} (h : FormatZ op i) :
    decode (commandWord op ch pid imm) =
      if ch = 0 ∧ pid = 0 ∧ imm = 0 then .command i else .reserved .nonzeroField := by
  simp only [decode, lowBits_eq_zero_iff, opField_commandWord, chField_commandWord,
    pidField_commandWord, immField_commandWord]
  cases h <;> rfl

theorem decode_formatC : decode (commandWord 1 ch pid imm) =
    if ch = 0 ∧ pid = 0 then .command (.construct imm) else .reserved .nonzeroField := by
  simp [decode]

theorem decode_formatW : decode (commandWord 2 ch pid imm) = decodeWrp ch pid imm := by
  simp [decode]

theorem decode_of_five_le {op : BitVec 4} (h : 5 ≤ op.toNat) :
    decode (commandWord op ch pid imm) = .reserved .opcode := by
  simp only [decode, opField_commandWord]
  split <;> [omega; omega; omega; omega; omega; rfl]

end

theorem guarded_eq_command_iff {c : Prop} [Decidable c] {i j : Instr} {why : Reserved} :
    (if c then Decoded.command i else .reserved why) = .command j ↔ c ∧ i = j := by
  split_ifs with hc <;> simp [hc]

theorem guarded_reserved_iff {c : Prop} [Decidable c] {i : Instr} {why : Reserved} :
    (∃ r, (if c then Decoded.command i else .reserved why) = .reserved r) ↔ ¬ c := by
  split_ifs with hc <;> simp [hc]

/-! ### The parameter tables -/

theorem exists_globalCommand_iff {pid : BitVec 8} {v : Raw} :
    (∃ i, globalCommand pid v = some i) ↔ pid.toNat ≤ 0x07 := by
  unfold globalCommand
  split <;> grind

theorem exists_channelCommand_iff {pid : BitVec 8} {c : ChField} {v : Raw} :
    (∃ i, channelCommand pid c v = some i) ↔ 0x10 ≤ pid.toNat ∧ pid.toNat ≤ 0x16 := by
  unfold channelCommand
  split <;> grind

theorem encode_of_globalCommand {pid : BitVec 8} {v : Raw} {i : Instr}
    (h : globalCommand pid v = some i) : i.channel = 0 ∧ encode i = commandWord 2 0 pid v := by
  unfold globalCommand at h
  split at h <;> cases h
  all_goals next hpid =>
    cases (BitVec.toNat_eq_nat.mp hpid).2
    exact ⟨rfl, rfl⟩

theorem encode_of_channelCommand {pid : BitVec 8} {c : ChField} {v : Raw} {i : Instr}
    (h : channelCommand pid c v = some i) : i.channel = c ∧ encode i = commandWord 2 c pid v := by
  unfold channelCommand at h
  split at h <;> cases h
  all_goals next hpid =>
    cases (BitVec.toNat_eq_nat.mp hpid).2
    exact ⟨rfl, rfl⟩

/-! ### Format `W` -/

theorem decodeWrp_global {pid : BitVec 8} {imm : Raw} {i : Instr}
    (h : globalCommand pid imm = some i) (ch : ChField) : decodeWrp ch pid imm =
      if ch = 0 then .command i else .reserved .channelOfGlobal := by
  simp only [decodeWrp, h]

/-- No parameter id is in both tables. -/
theorem decodeWrp_channel {ch : ChField} {pid : BitVec 8} {imm : Raw} {i : Instr}
    (h : channelCommand pid ch imm = some i) : decodeWrp ch pid imm =
      if ch.toNat < 8 then .command i else .reserved .channelAbove7 := by
  obtain ⟨hlow, -⟩ := exists_channelCommand_iff.mp ⟨i, h⟩
  have hglobal : globalCommand pid imm = none := by
    refine Option.eq_none_iff_forall_ne_some.mpr fun j hj => ?_
    have := exists_globalCommand_iff.mp ⟨j, hj⟩
    omega
  simp only [decodeWrp, hglobal, h]

/-- What format `W` reads for the ids of each table of 30_encoding.md R96, and for every other id. -/
theorem decodeWrp_cases (ch : ChField) (pid : BitVec 8) (imm : Raw) :
    (∃ i, globalCommand pid imm = some i ∧
      decodeWrp ch pid imm = if ch = 0 then .command i else .reserved .channelOfGlobal) ∨
    (∃ i, channelCommand pid ch imm = some i ∧
      decodeWrp ch pid imm = if ch.toNat < 8 then .command i else .reserved .channelAbove7) ∨
    ((¬ pid.toNat ≤ 0x07 ∧ ¬ (0x10 ≤ pid.toNat ∧ pid.toNat ≤ 0x16)) ∧
      decodeWrp ch pid imm = .reserved .parameter) := by
  cases hglobal : globalCommand pid imm with
  | some i => exact .inl ⟨i, rfl, decodeWrp_global hglobal ch⟩
  | none =>
    cases hchannel : channelCommand pid ch imm with
    | some i => exact .inr (.inl ⟨i, rfl, decodeWrp_channel hchannel⟩)
    | none =>
      refine .inr (.inr ⟨⟨?_, ?_⟩, by simp only [decodeWrp, hglobal, hchannel]⟩)
      · simp [← exists_globalCommand_iff (v := imm), hglobal]
      · simp [← exists_channelCommand_iff (c := ch) (v := imm), hchannel]

/-! ### The round trips -/

theorem decode_globalWord {pid : BitVec 8} {v : Raw} {i : Instr}
    (h : globalCommand pid v = some i) : decode (commandWord 2 0 pid v) = .command i := by
  rw [decode_formatW, decodeWrp_global h, if_pos rfl]

theorem decode_channelWord {pid : BitVec 8} {c : ChField} {v : Raw} {i : Instr}
    (h : channelCommand pid c v = some i) (hc : c.toNat < 8) :
    decode (commandWord 2 c pid v) = .command i := by
  rw [decode_formatW, decodeWrp_channel h, if_pos hc]

theorem wellFormed_iff (i : Instr) : wellFormed i = true ↔ i.channel.toNat < 8 := decide_eq_true_iff

/-- Settles O20: each command's word decodes by the row of its opcode, and a `WRP` by its row of one
of the two parameter tables. -/
theorem wellFormedCommandsDecodeBack : Obligations.WellFormedCommandsDecodeBack := by
  intro i hwf
  have hch := (wellFormed_iff i).mp hwf
  cases i with
  | nop => exact decode_formatZ 0 0 0 .nop
  | construct n => exact decode_formatC 0 0 n
  | wrpOutL v | wrpOutR v | wrpOutMode v | wrpMaster v | wrpSat v | wrpSquash v | wrpLookahead v
  | wrpFbDelay v => exact decode_globalWord rfl
  | wrpInBus c v | wrpFb c v | wrpFbCvBus c v | wrpFbCvDepth c v | wrpPan c v | wrpPanCvBus c v
  | wrpPanCvDepth c v => exact decode_channelWord rfl hch
  | blkstart => exact decode_formatZ 0 0 0 .blkstart
  | frame => exact decode_formatZ 0 0 0 .frame

theorem decodeWrp_command {ch : ChField} {pid : BitVec 8} {imm : Raw} {i : Instr}
    (h : decodeWrp ch pid imm = .command i) :
    wellFormed i = true ∧ encode i = commandWord 2 ch pid imm := by
  rw [wellFormed_iff]
  obtain ⟨j, hj, heq⟩ | ⟨j, hj, heq⟩ | ⟨-, heq⟩ := decodeWrp_cases ch pid imm
  · obtain ⟨rfl, rfl⟩ := guarded_eq_command_iff.mp (heq.symm.trans h)
    obtain ⟨hch, hword⟩ := encode_of_globalCommand hj
    exact ⟨by simp [hch], hword⟩
  · obtain ⟨hlt, rfl⟩ := guarded_eq_command_iff.mp (heq.symm.trans h)
    obtain ⟨hch, hword⟩ := encode_of_channelCommand hj
    exact ⟨hch ▸ hlt, hword⟩
  · cases heq.symm.trans h

/-- Settles O21: in each format the fields a decoded command does not carry are 0, so its word has no
other bits than the command's own. -/
theorem decodedWordIsTheEncoding : Obligations.DecodedWordIsTheEncoding := by
  intro w i h
  obtain ⟨op, ch, pid, imm, rfl⟩ := exists_fields w
  obtain ⟨j, hZ⟩ | rfl | rfl | hfree := opcode_cases op
  · rw [decode_formatZ ch pid imm hZ] at h
    obtain ⟨⟨rfl, rfl, rfl⟩, rfl⟩ := guarded_eq_command_iff.mp h
    exact hZ.wellFormed_encode
  · rw [decode_formatC] at h
    obtain ⟨⟨rfl, rfl⟩, rfl⟩ := guarded_eq_command_iff.mp h
    exact ⟨rfl, rfl⟩
  · rw [decode_formatW] at h
    exact decodeWrp_command h
  · cases (decode_of_five_le ch pid imm hfree).symm.trans h

theorem decode_of_encode_eq {i : Instr} {w : Word} (hword : encode i = w)
    (hwf : wellFormed i = true) : decode w = .command i :=
  hword ▸ wellFormedCommandsDecodeBack i hwf

/-- Settles O19: each word is the encoding of its command. -/
theorem wordsOfTheTablesDecode : Obligations.WordsOfTheTablesDecode := by
  refine ⟨?_, ?_, ?_, ?_, ?_, ?_, ?_, ?_⟩ <;> exact decode_of_encode_eq (by decide) (by decide)

/-! ### Reserved words -/

theorem decodeWrp_reserved_iff (ch : ChField) (pid : BitVec 8) (imm : Raw) :
    (∃ why, decodeWrp ch pid imm = .reserved why) ↔
      (¬ pid.toNat ≤ 0x07 ∧ ¬ (0x10 ≤ pid.toNat ∧ pid.toNat ≤ 0x16)) ∨
      (pid.toNat ≤ 0x07 ∧ ch.toNat ≠ 0) ∨
      (0x10 ≤ pid.toNat ∧ pid.toNat ≤ 0x16 ∧ 8 ≤ ch.toNat) := by
  obtain ⟨i, hi, heq⟩ | ⟨i, hi, heq⟩ | ⟨hpid, heq⟩ := decodeWrp_cases ch pid imm
  · have hpid := exists_globalCommand_iff.mp ⟨i, hi⟩
    rw [heq, guarded_reserved_iff]
    bv_omega
  · have hpid := exists_channelCommand_iff.mp ⟨i, hi⟩
    rw [heq, guarded_reserved_iff]
    omega
  · exact iff_of_true ⟨_, heq⟩ (.inl hpid)

/-- 30_encoding.md R97, over the four fields. -/
theorem decode_commandWord_reserved_iff (op : BitVec 4) (ch : ChField) (pid : BitVec 8) (imm : Raw) :
    (∃ why, decode (commandWord op ch pid imm) = .reserved why) ↔
      5 ≤ op.toNat ∨
      ((op.toNat = 0 ∨ op.toNat = 3 ∨ op.toNat = 4) ∧
        (ch.toNat ≠ 0 ∨ pid.toNat ≠ 0 ∨ imm.toNat ≠ 0)) ∨
      (op.toNat = 1 ∧ (ch.toNat ≠ 0 ∨ pid.toNat ≠ 0)) ∨
      (op.toNat = 2 ∧ ¬ pid.toNat ≤ 0x07 ∧ ¬ (0x10 ≤ pid.toNat ∧ pid.toNat ≤ 0x16)) ∨
      (op.toNat = 2 ∧ pid.toNat ≤ 0x07 ∧ ch.toNat ≠ 0) ∨
      (op.toNat = 2 ∧ 0x10 ≤ pid.toNat ∧ pid.toNat ≤ 0x16 ∧ 8 ≤ ch.toNat) := by
  obtain ⟨i, hZ⟩ | rfl | rfl | hfree := opcode_cases op
  · have hop := hZ.opcode
    rw [decode_formatZ ch pid imm hZ, guarded_reserved_iff]
    bv_omega
  · rw [decode_formatC, guarded_reserved_iff]
    simp [imp_iff_not_or, BitVec.toNat_eq]
  · rw [decode_formatW, decodeWrp_reserved_iff]
    simp
  · exact iff_of_true ⟨_, decode_of_five_le ch pid imm hfree⟩ (.inl hfree)

/-- Settles O22: the list over the fields of the word. -/
theorem reservedWordsAreTheListed : Obligations.ReservedWordsAreTheListed := by
  intro w
  have h := decode_commandWord_reserved_iff (opField w) (chField w) (pidField w) (immField w)
  rwa [commandWord_fields] at h

/-! ### The steps that run no command -/

theorem step_reserved {s : State} {w : Word} {why : Reserved} {rest : List HostMove}
    (hport : s.port = .command w :: rest) (hdec : decode w = .reserved why) :
    step s = .next (s.setPort rest) :=
  (step_move hport).trans (acceptWord_reserved hdec)

/-- 20_memory.md R67: a lane from 1 to `NB` takes the host's sample. -/
theorem driveLane_of_mem {s : State} {i : Nat} (hlow : 1 ≤ i) (hhigh : i ≤ s.cfg.nb) (v : NumVal) :
    driveLane s i v = .next (s.setBus (memWrite s.bus i v)) := by
  obtain ⟨-, heq⟩ | ⟨hmissing, -⟩ := driveLane_cases s i v
  · exact heq
  · omega

/-- Settles O24: a step is held, or is the oldest move of the host. -/
theorem stepOfOtherMoves : Obligations.StepOfOtherMoves := by
  intro s rest
  refine ⟨step_idle, fun w why hdec hport => step_reserved hport hdec, fun f hport => ?_,
    fun i v hport hlow hhigh => ?_⟩
  · exact step_move hport
  · exact (step_move hport).trans (driveLane_of_mem (s := s.setPort rest) hlow hhigh v)

end Sys2Proof.Machine
end

section
/-! PROOFS. The micro-operations without a comparison in exact arithmetic, the laws of the smoother
(40_smoother.md R121, R123), and the turn of a channel against the formulas of its rules
(46_mixengine_frame.md R201). -/

namespace Sys2Proof.Machine

/-! ### Micro-operations in exact arithmetic -/

@[simp] theorem exactOps_halfPi : exactOps.halfPi = .halfPi := rfl
@[simp] theorem exactOps_tanh (a : NumVal) : exactOps.tanh a = exactTanh a := rfl
@[simp] theorem exactOps_cos (a : NumVal) : exactOps.cos a = exactCos a := rfl
@[simp] theorem exactOps_sin (a : NumVal) : exactOps.sin a = exactSin a := rfl

@[simp] theorem realValue_halfPi : realValue .halfPi = Real.pi / 2 := rfl

theorem realValue_smooth (k prev target : NumVal) : realValue (smooth exactOps k prev target) =
    realValue prev + realValue k * (realValue target - realValue prev) := by
  simp [smooth]

theorem realValue_dcOut (r x1 y1 x : NumVal) : realValue (dcOut exactOps r x1 y1 x) =
    (realValue x - realValue x1) + realValue r * realValue y1 := by
  simp [dcOut]

theorem realValue_fbSum (x y fbEff : NumVal) : realValue (fbSum exactOps x y fbEff) =
    realValue x + realValue y * realValue fbEff := by
  simp [fbSum]

theorem realValue_panAngle (p : NumVal) : realValue (panAngle exactOps p) =
    (realValue p + 100) / 200 * (Real.pi / 2) := by
  simp [panAngle]

theorem realValue_pan (p : NumVal) :
    realValue (pan exactOps p).1 = Real.cos ((realValue p + 100) / 200 * (Real.pi / 2)) ∧
    realValue (pan exactOps p).2 = Real.sin ((realValue p + 100) / 200 * (Real.pi / 2)) := by
  simp [pan, realValue_panAngle]

theorem realValue_satSoft (x : NumVal) : realValue (satSoft exactOps x) = Real.tanh (realValue x) :=
  realValue_exactTanh x

/-- Settles O42: each micro-operation by its own law. -/
theorem microOperationsMatchReals : Obligations.MicroOperationsMatchReals := by
  intro a b c d
  obtain ⟨hcos, hsin⟩ := realValue_pan a
  exact ⟨realValue_smooth a b c, realValue_dcOut a b c d, realValue_fbSum a b c, hcos, hsin,
    realValue_satSoft a⟩

/-! ### The smoother over the reals -/

theorem smooth_realOps (k p T : ℝ) : smooth realOps k p T = p + k * (T - p) := rfl

/-- One invocation multiplies the distance to the target by `1 - k`. -/
theorem smooth_eq_target_add (k p T : ℝ) : smooth realOps k p T = T + (1 - k) * (p - T) := by
  rw [smooth_realOps]
  ring

/-- `S` of `p` is a point of the segment from `p` to the target: an interval that holds both ends holds
it. The clauses of R123 on monotony, on not passing the target and on boundedness are its cases. -/
theorem smooth_mem_Icc {k p T lo hi : ℝ} (hk : 0 ≤ k) (hk1 : k ≤ 1) (hp : p ∈ Set.Icc lo hi)
    (hT : T ∈ Set.Icc lo hi) : smooth realOps k p T ∈ Set.Icc lo hi :=
  (convex_Icc lo hi).add_smul_sub_mem hp hT ⟨hk, hk1⟩

theorem iterate_smooth (k T : ℝ) (n : ℕ) (p : ℝ) :
    (fun q => smooth realOps k q T)^[n] p = T + (1 - k) ^ n * (p - T) := by
  induction n with
  | zero => simp
  | succ n ih =>
    rw [Function.iterate_succ_apply', ih, smooth_eq_target_add]
    ring

theorem iterate_smooth_ne {k p T : ℝ} (hk1 : k < 1) (hp : p ≠ T) (n : ℕ) :
    (fun q => smooth realOps k q T)^[n] p ≠ T := by
  have hdist : (1 - k) ^ n * (p - T) ≠ 0 :=
    mul_ne_zero (pow_ne_zero n (sub_pos.mpr hk1).ne') (sub_ne_zero.mpr hp)
  rw [iterate_smooth]
  exact add_ne_left.mpr hdist

/-- The distance to the target is a geometric sequence with a ratio in `[0, 1)`. -/
theorem tendsto_iterate_smooth {k : ℝ} (hk : 0 < k) (hk1 : k ≤ 1) (p T : ℝ) :
    Filter.Tendsto (fun n => (fun q => smooth realOps k q T)^[n] p) Filter.atTop (nhds T) := by
  have hratio : Filter.Tendsto (fun n : ℕ => (1 - k) ^ n) Filter.atTop (nhds 0) :=
    tendsto_pow_atTop_nhds_zero_of_lt_one (sub_nonneg.mpr hk1) (sub_lt_self 1 hk)
  simpa [iterate_smooth] using (hratio.mul_const (p - T)).const_add T

/-- Settles O43: the closed form gives the values after `n` invocations and the settling, the segment
between the value and the target gives the bounds. -/
theorem smootherLaws : Obligations.SmootherLaws := by
  intro k T hk hk1 S
  refine ⟨?fixed, iterate_smooth k T, ?fromBelow, ?fromAbove, ?instant,
    fun hlt p hp n => iterate_smooth_ne hlt hp n, ?settles, ?bounded⟩
  case fixed => simp [S, smooth_realOps]
  case fromBelow =>
    exact fun p hp => smooth_mem_Icc hk.le hk1 (Set.left_mem_Icc.mpr hp) (Set.right_mem_Icc.mpr hp)
  case fromAbove =>
    exact fun p hp => smooth_mem_Icc hk.le hk1 (Set.right_mem_Icc.mpr hp) (Set.left_mem_Icc.mpr hp)
  case instant =>
    rintro rfl p
    simp [S, smooth_realOps]
  case settles =>
    exact fun p => Metric.tendsto_atTop.mp (tendsto_iterate_smooth hk hk1 p T)
  case bounded =>
    exact fun lo hi p hlo hhi hloT hThi => smooth_mem_Icc hk.le hk1 ⟨hlo, hhi⟩ ⟨hloT, hThi⟩

/-! ### The turn of a channel and the formulas of its rules -/

section
variable (C : Cfg) (bus : Memory) (c : Fin 8) (i : Instance)

/-- The machine's test of a lane is the range `Rule.valid` writes out (20_memory.md R68). -/
theorem ite_busValid {α : Type} (lane : Int) (a b : α) :
    (if busValid C lane then a else b) = if Rule.valid C lane then a else b :=
  if_congr (busValid_iff C lane) rfl rfl

/-- 40_smoother.md R122, 42_feedback_dcblock.md R141, R143: the four registers of a channel. -/
theorem channelRegs_eq_rule : channelRegs C c i =
    let N := arithOps C.arith
    ⟨Rule.sFb N i c, Rule.sPan N i c, Rule.tap C i c, Rule.filtered C N i c⟩ := rfl

/-- 42_feedback_dcblock.md R144: the signal of a channel. -/
theorem channelWord_eq_rule :
    channelWord C bus c i = Rule.signal C (arithOps C.arith) bus i c := by
  simp only [channelWord, input, ite_busValid]
  rfl

/-- 43_panner.md R160: the two gains of a channel. -/
theorem channelGains_eq_rule : channelGains C bus c i =
    let N := arithOps C.arith
    (N.cos (Rule.angle C N bus i c), N.sin (Rule.angle C N bus i c)) := by
  simp only [channelGains, ite_busValid]
  rfl

/-- 46_mixengine_frame.md R201: the two sides of a channel. -/
theorem channel_sides_eq_rule :
    (channel C bus c i).l = Rule.left C (arithOps C.arith) bus i c ∧
    (channel C bus c i).r = Rule.right C (arithOps C.arith) bus i c := by
  rw [channel_eq, channelWord_eq_rule, channelGains_eq_rule]
  exact ⟨rfl, rfl⟩

end

/-- What a frame leaves of each channel below `S.N`: its turn on the state before the frame. -/
theorem processFrame_channel {s : State} {c : Fin 8} (hc : (c : Nat) < s.inst.n) :
    (processFrame s).inst.chan[c] = channelRegs s.cfg c s.inst := by
  rw [processFrame_inst]
  exact (mixChannels_spec s.cfg s.bus s.inst).1.done c (mem_channels.mpr hc)

/-- 42_feedback_dcblock.md R145: the word of each channel in the write slot of the feedback ring. -/
theorem processFrame_fb_word {s : State} {c : Fin 8} (hc : (c : Nat) < s.inst.n)
    (hwf : Memory.wf s.inst.fb = true) :
    memRead (processFrame s).inst.fb (s.inst.fbW * s.inst.n + c) =
      channelWord s.cfg s.bus c s.inst := by
  rw [processFrame_inst]
  exact (mixChannels_spec s.cfg s.bus s.inst).1.lanes hwf c (mem_channels.mpr hc)

/-- Settles O30: the statement's formulas are those of `Rule`, which the channel's turn computes, and
the channel loop leaves of each channel what its own turn makes of the state before the frame. -/
theorem frameChannelRegisters : Obligations.FrameChannelRegisters := by
  intro s c hrun hc hwf
  obtain ⟨hleft, hright⟩ := channel_sides_eq_rule s.cfg s.bus c s.inst
  have hregs := (processFrame_channel hc).trans (channelRegs_eq_rule s.cfg c s.inst)
  have hword := (processFrame_fb_word hc hwf).trans (channelWord_eq_rule s.cfg s.bus c s.inst)
  exact ⟨hleft, hright, rfl, rfl, processFrame s, execFrame_eq hrun, hregs, hword⟩

end Sys2Proof.Machine
end

section
/-! PROOFS. The operations of the signal path that compare: their formulas over the reals, with the
corner cases of the two CV blends (41_cv_modulation.md R131 to R134), and what the machine computes in
exact arithmetic, which has the real values of those formulas (44_saturation.md R170 to R173,
45_limiter.md R183 to R188, 46_mixengine_frame.md R211). -/

namespace Sys2Proof.Machine

/-! ### The real numbers by their operations -/

@[simp] theorem realOps_ofInt (z : Int) : realOps.ofInt z = (z : ℝ) := rfl
@[simp] theorem realOps_lit (q : Rat) : realOps.lit q = (q : ℝ) := rfl
@[simp] theorem realOps_add (a b : ℝ) : realOps.add a b = a + b := rfl
@[simp] theorem realOps_sub (a b : ℝ) : realOps.sub a b = a - b := rfl
@[simp] theorem realOps_mul (a b : ℝ) : realOps.mul a b = a * b := rfl
@[simp] theorem realOps_div (a b : ℝ) : realOps.div a b = a / b := rfl
@[simp] theorem realOps_abs (a : ℝ) : realOps.abs a = |a| := rfl
@[simp] theorem realOps_lt (a b : ℝ) : realOps.lt a b = decide (a < b) := rfl
@[simp] theorem realOps_le (a b : ℝ) : realOps.le a b = decide (a ≤ b) := rfl
@[simp] theorem realOps_tanh (a : ℝ) : realOps.tanh a = Real.tanh a := rfl

/-! ### The clamp over the reals -/

section
variable {v lo hi : ℝ}

theorem clampN_realOps (h : lo ≤ hi) (v : ℝ) :
    clampN realOps v lo hi = max lo (min hi v) := by
  have hupper : (if hi < v then hi else v) = min hi v := (min_def_lt hi v).symm
  simp only [clampN, realOps_lt, decide_eq_true_eq, hupper]
  split_ifs with hlow
  · exact (max_eq_left (min_le_of_right_le hlow.le)).symm
  · exact (max_eq_right (le_min h (not_lt.mp hlow))).symm

theorem clampN_realOps_mem (h : lo ≤ hi) (v : ℝ) :
    clampN realOps v lo hi ∈ Set.Icc lo hi := by
  rw [clampN_realOps h]
  exact ⟨le_max_left _ _, max_le h (min_le_left _ _)⟩

theorem clampN_realOps_of_mem (hlo : lo ≤ v) (hhi : v ≤ hi) : clampN realOps v lo hi = v := by
  rw [clampN_realOps (hlo.trans hhi), min_eq_right hhi, max_eq_right hlo]

theorem clampN_realOps_of_le (h : lo ≤ hi) (hv : v ≤ lo) : clampN realOps v lo hi = lo := by
  rw [clampN_realOps h, min_eq_right (hv.trans h), max_eq_left hv]

theorem clampN_realOps_of_ge (h : lo ≤ hi) (hv : hi ≤ v) : clampN realOps v lo hi = hi := by
  rw [clampN_realOps h, min_eq_left hv, max_eq_right h]

end

/-! ### The two CV blends over the reals -/

theorem unipolarCv_realOps (v : ℝ) :
    unipolarCv realOps v = clampN realOps (v / 5 * 0.5 + 0.5) 0 1 := by
  norm_num [unipolarCv]

theorem unipolarCv_realOps_mem (v : ℝ) : unipolarCv realOps v ∈ Set.Icc 0 1 := by
  rw [unipolarCv_realOps]
  exact clampN_realOps_mem zero_le_one _

theorem unipolarCv_realOps_of_le {v : ℝ} (h : v ≤ -5) : unipolarCv realOps v = 0 := by
  rw [unipolarCv_realOps]
  exact clampN_realOps_of_le zero_le_one (by linarith)

theorem unipolarCv_realOps_of_ge {v : ℝ} (h : 5 ≤ v) : unipolarCv realOps v = 1 := by
  rw [unipolarCv_realOps]
  exact clampN_realOps_of_ge zero_le_one (by linarith)

theorem unipolarCv_realOps_of_mem {v : ℝ} (hlo : -5 ≤ v) (hhi : v ≤ 5) :
    unipolarCv realOps v = v / 5 * 0.5 + 0.5 := by
  rw [unipolarCv_realOps]
  exact clampN_realOps_of_mem (by linarith) (by linarith)

theorem cvFbBlend_realOps (base d v : ℝ) :
    cvFbBlend realOps base d v = base * (1 - d) + unipolarCv realOps v * d := by
  simp [cvFbBlend]

/-- R132: the blend is a point of the segment from the base to the rectified CV, so it is in `[0, 1]` with
both. -/
theorem cvFbBlend_realOps_mem {base d : ℝ} (hbase : base ∈ Set.Icc 0 1) (hd : d ∈ Set.Icc 0 1)
    (v : ℝ) : cvFbBlend realOps base d v ∈ Set.Icc 0 1 := by
  obtain ⟨hd0, hd1⟩ := hd
  have hsegment := convex_Icc (0 : ℝ) 1 hbase (unipolarCv_realOps_mem v) (sub_nonneg.mpr hd1) hd0
    (sub_add_cancel 1 d)
  rwa [smul_eq_mul, smul_eq_mul, mul_comm, mul_comm d, ← cvFbBlend_realOps] at hsegment

theorem cvPanSum_realOps (base d v : ℝ) :
    cvPanSum realOps base d v = clampN realOps (base + v / 5 * (100 * d)) (-100) 100 := by
  simp [cvPanSum]

theorem cvPanSum_realOps_mem (base d v : ℝ) : cvPanSum realOps base d v ∈ Set.Icc (-100) 100 := by
  rw [cvPanSum_realOps]
  exact clampN_realOps_mem (by norm_num) _

/-- Within the range of a pan the clamp does nothing: the sum is the base and the CV's share, `s`. -/
theorem cvPanSum_realOps_of_mem {base d v s : ℝ} (hs : v / 5 * (100 * d) = s) (hlo : -100 ≤ base + s)
    (hhi : base + s ≤ 100) : cvPanSum realOps base d v = base + s := by
  rw [cvPanSum_realOps, hs]
  exact clampN_realOps_of_mem hlo hhi

/-- R134: no depth or no voltage leaves the pan. -/
theorem cvPanSum_realOps_unmoved {base d v : ℝ} (hs : v / 5 * (100 * d) = 0) (hlo : -100 ≤ base)
    (hhi : base ≤ 100) : cvPanSum realOps base d v = base := by
  simpa using cvPanSum_realOps_of_mem hs (by simpa using hlo) (by simpa using hhi)

/-- R134: full depth adds 100 at 5 V, where that leaves a pan. -/
theorem cvPanSum_realOps_full {base : ℝ} (hlo : -100 ≤ base) (hhi : base ≤ 0) :
    cvPanSum realOps base 1 5 = base + 100 :=
  cvPanSum_realOps_of_mem (by norm_num) (by linarith) (by linarith)

/-- R134: full depth takes 100 away at -5 V, where that leaves a pan. -/
theorem cvPanSum_realOps_full_neg {base : ℝ} (hlo : 0 ≤ base) (hhi : base ≤ 100) :
    cvPanSum realOps base 1 (-5) = base - 100 :=
  cvPanSum_realOps_of_mem (by norm_num) (by linarith) (by linarith)

/-- Settles O45: each corner is the clamp at, beyond or within an end of its range. -/
theorem cvModulationCorners : Obligations.CvModulationCorners := by
  refine ⟨fun v => unipolarCv_realOps_of_le, fun v => unipolarCv_realOps_of_ge,
    fun v => unipolarCv_realOps_of_mem, ?noVoltage, cvFbBlend_realOps, ?noDepth, ?fullDepth,
    fun base d v h0 h1 hd0 hd1 => cvFbBlend_realOps_mem ⟨h0, h1⟩ ⟨hd0, hd1⟩ v, ?panSum,
    cvPanSum_realOps_mem, fun base v => cvPanSum_realOps_unmoved (by simp),
    fun base d => cvPanSum_realOps_unmoved (by simp), fun base => cvPanSum_realOps_full,
    fun base => cvPanSum_realOps_full_neg, ?centreUp, ?centreDown, ?pinned⟩
  case noVoltage => rw [unipolarCv_realOps_of_mem] <;> norm_num
  case noDepth => simp [cvFbBlend_realOps]
  case fullDepth => simp [cvFbBlend_realOps]
  case panSum =>
    intro base d v
    rw [cvPanSum_realOps, clampN_realOps (by norm_num)]
  case centreUp => simpa using cvPanSum_realOps_full (base := 0) (by norm_num) le_rfl
  case centreDown => simpa using cvPanSum_realOps_full_neg (base := 0) le_rfl (by norm_num)
  case pinned =>
    intro base hbase
    rw [cvPanSum_realOps]
    exact clampN_realOps_of_ge (by norm_num) (by linarith)

/-! ### The curves and the threshold over the reals -/

theorem satTube_realOps (x : ℝ) : satTube realOps x =
    if 0 ≤ x then Real.tanh (0.8 * x) * 1.1 else Real.tanh (1.2 * x) * 0.9 := by
  norm_num [satTube]

theorem hardMagnitude_realOps (a : ℝ) :
    hardMagnitude realOps a = if a ≤ 1 then 0.8 + (a - 0.8) * 0.5 else 1 := by
  norm_num [hardMagnitude]

theorem satHard_realOps (x : ℝ) : satHard realOps x =
    if |x| ≤ 0.8 then x
    else if x < 0 then -hardMagnitude realOps |x| else hardMagnitude realOps |x| := by
  norm_num [satHard]

/-- R211: the two guards of the threshold are a maximum, then a minimum. -/
theorem thresh_realOps (vMax vMin : ℝ) (raw : Raw) : thresh realOps vMax vMin raw =
    min vMax (max vMin
      (vMax + ((clampi raw.toInt 0 100 : ℤ) : ℝ) / 100 * (vMin - vMax))) := by
  have hlow : ∀ t, (if t < vMin then vMin else t) = max vMin t := fun t => by
    rw [max_comm, max_def_lt]
  have hhigh : ∀ t, (if vMax < t then vMax else t) = min vMax t := fun t => (min_def_lt vMax t).symm
  simp only [thresh, realOps_lt, decide_eq_true_eq, hlow, hhigh]
  simp [percent, signed]

/-! ### The machine's comparing operations have their real values

In exact arithmetic a comparison decides as the order of the real values does (`exactLt_iff`,
`exactLe_iff`), so both sides take the same branch, and the branches agree by the operations' laws. -/

@[simp] theorem exactOps_lit (q : Rat) : exactOps.lit q = .rat q := rfl
@[simp] theorem exactOps_abs (a : NumVal) : exactOps.abs a = exactAbs a := rfl
@[simp] theorem exactOps_max (a b : NumVal) : exactOps.max a b = exactMax a b := rfl

theorem realValue_clampN (v lo hi : NumVal) : realValue (clampN exactOps v lo hi) =
    clampN realOps (realValue v) (realValue lo) (realValue hi) := by
  simp [clampN, apply_ite realValue, exactLt_iff]

theorem realValue_cvFbBlend (base depth v : NumVal) : realValue (cvFbBlend exactOps base depth v) =
    cvFbBlend realOps (realValue base) (realValue depth) (realValue v) := by
  simp [cvFbBlend, unipolarCv, realValue_clampN]

theorem realValue_cvPanSum (base depth v : NumVal) : realValue (cvPanSum exactOps base depth v) =
    cvPanSum realOps (realValue base) (realValue depth) (realValue v) := by
  simp [cvPanSum, realValue_clampN]

theorem realValue_hardMagnitude (a : NumVal) :
    realValue (hardMagnitude exactOps a) = hardMagnitude realOps (realValue a) := by
  simp [hardMagnitude, apply_ite realValue, exactLe_iff]

/-- R170: each curve of the machine is the curve over the reals. -/
theorem realValue_sat (sel : SatCurve) (x : NumVal) :
    realValue (sat exactOps sel x) = sat realOps sel (realValue x) := by
  cases sel with
  | soft => exact realValue_satSoft x
  | tube => simp [sat, satTube, apply_ite realValue, exactLe_iff]
  | hard => simp [sat, satHard, apply_ite realValue, exactLe_iff, exactLt_iff, realValue_hardMagnitude]

theorem realValue_satN (sel : SatCurve) (v thr : NumVal) : realValue (satN exactOps sel v thr) =
    realValue (sat exactOps sel (exactDiv v thr)) * realValue thr :=
  realValue_exactMul _ _

theorem realValue_peakOf (l r : NumVal) :
    realValue (peakOf exactOps l r) = max |realValue l| |realValue r| := by
  simp [peakOf]

theorem realValue_envNext (K : Coeffs NumVal) (env peak : NumVal) :
    realValue (envNext exactOps K env peak) = realValue env +
      (if realValue env < realValue peak then realValue K.cA else realValue K.cRl) *
        (realValue peak - realValue env) := by
  simp [envNext, envStep, apply_ite realValue, exactLt_iff]

theorem realValue_gainTarget (env thr : NumVal) : realValue (gainTarget exactOps env thr) =
    if realValue env ≤ realValue thr then 1 else realValue thr / realValue env := by
  simp [gainTarget, apply_ite realValue, exactLe_iff]

theorem realValue_gainNext (K : Coeffs NumVal) (gr target : NumVal) :
    realValue (gainNext exactOps K gr target) =
      realValue gr + realValue K.cG * (realValue target - realValue gr) := by
  simp [gainNext]

/-- R188: the two tests for the curve, by the order of the real values. -/
theorem engaged_exactOps_iff (gr env thr : NumVal) : engaged exactOps gr env thr = true ↔
    realValue gr < 1 ∨ realValue thr < realValue env := by
  simp [engaged, exactLt_iff]

theorem realValue_limitSide (sel : SatCurve) (gr env thr d : NumVal) :
    realValue (limitSide exactOps sel gr env thr d) =
      if realValue gr < 1 ∨ realValue thr < realValue env then
        realValue (sat exactOps sel (exactDiv (exactMul d gr) thr)) * realValue thr
      else realValue d * realValue gr := by
  simp only [limitSide, apply_ite realValue, engaged_exactOps_iff, realValue_satN, exactOps_mul,
    realValue_exactMul]

theorem realValue_thresh (vMax vMin : NumVal) (raw : Raw) :
    realValue (thresh exactOps vMax vMin raw) =
      thresh realOps (realValue vMax) (realValue vMin) raw := by
  simp [thresh, percent, apply_ite realValue, exactLt_iff]

/-- Settles O58: each operation has the value of the same operation over the reals, whose formula stands
above. -/
theorem comparingOperationsMatchReals : Obligations.ComparingOperationsMatchReals := by
  refine ⟨fun base depth v => ⟨?feedback, ?pan⟩, fun x => ⟨?tube, ?hard⟩,
    fun K env peak gr target thr => ⟨realValue_peakOf env peak, realValue_envNext K env peak,
      realValue_gainTarget env thr, realValue_gainNext K gr target⟩,
    realValue_limitSide, fun vMax vMin raw => ?threshold⟩
  case feedback =>
    rw [realValue_cvFbBlend, cvFbBlend_realOps, unipolarCv_realOps, clampN_realOps zero_le_one]
  case pan => rw [realValue_cvPanSum, cvPanSum_realOps, clampN_realOps (by norm_num)]
  case tube => exact (realValue_sat .tube x).trans (satTube_realOps _)
  case hard =>
    rw [realValue_sat, ← hardMagnitude_realOps]
    exact satHard_realOps _
  case threshold => rw [realValue_thresh, thresh_realOps]

end Sys2Proof.Machine
end

section
/-! PROOFS. The feedback path without feedback, and the response of the DC blocker to a constant, an
impulse and an alternating tap (42_feedback_dcblock.md R143, R144, R148, R149). -/

namespace Sys2Proof.Machine

open Filter Topology

/-! ### The sum with an effective feedback of 0 -/

/-- Settles O39: the product with 0 is 0 and the sum with 0 is its other term, as expressions. -/
theorem zeroFeedbackIsPassthrough : Obligations.ZeroFeedbackIsPassthrough := by
  intro x y
  calc fbSum exactOps x y (.rat 0)
      = exactAdd x (exactMul y (.rat 0)) := rfl
    _ = x := by rw [exactMul_zero_right, exactAdd_zero_right]

/-! ### The DC blocker over the reals: the recursion of its outputs -/

theorem dcOut_realOps (r x1 y1 x : ℝ) : dcOut realOps r x1 y1 x = (x - x1) + r * y1 := rfl

/-- R143 from the zero state: the first output is the first tap. -/
theorem dcOutput_zero (r : ℝ) (x : ℕ → ℝ) : dcOutput r x 0 = x 0 := by
  simp [dcOutput, dcState, dcOut_realOps]

/-- R143 between two taps: the registers hold the last tap and the last output. -/
theorem dcOutput_succ (r : ℝ) (x : ℕ → ℝ) (n : ℕ) :
    dcOutput r x (n + 1) = (x (n + 1) - x n) + r * dcOutput r x n := rfl

/-! ### The responses of the DC blocker -/

/-- R149 (b). -/
theorem dcOutput_const (r D : ℝ) (n : ℕ) : dcOutput r (fun _ => D) n = r ^ n * D := by
  induction n with
  | zero => simp [dcOutput_zero]
  | succ n ih =>
    rw [dcOutput_succ, ih]
    ring

/-- R149 (c): past the impulse itself only the recursion acts. -/
theorem dcOutput_impulse_succ (r : ℝ) (n : ℕ) :
    dcOutput r (fun n => if n = 0 then 1 else 0) (n + 1) = (r - 1) * r ^ n := by
  induction n with
  | zero => simp [dcOutput_succ, dcOutput_zero, neg_add_eq_sub]
  | succ n ih =>
    rw [dcOutput_succ, ih]
    simp [pow_succ', mul_left_comm]

/-- The magnitude of the response to the alternating tap follows `z ↦ 2 - r * z`. -/
theorem dcOutput_alternating_succ (r : ℝ) (n : ℕ) :
    (-1) ^ (n + 1) * dcOutput r (fun n => (-1) ^ n) (n + 1) =
      2 - r * ((-1) ^ n * dcOutput r (fun n => (-1) ^ n) n) := by
  have hsign : ((-1 : ℝ) ^ n) * (-1) ^ n = 1 := by rw [← mul_pow]; simp
  rw [dcOutput_succ]
  linear_combination 2 * hsign

/-- The magnitude's distance to the fixed point `2 / (1 + r)` is multiplied by `-r` at each tap. -/
theorem dcOutput_alternating {r : ℝ} (hr : 1 + r ≠ 0) (n : ℕ) :
    (-1) ^ n * dcOutput r (fun n => (-1) ^ n) n =
      2 / (1 + r) + (-r) ^ n * (1 - 2 / (1 + r)) := by
  have hfixed : 2 / (1 + r) = 2 - r * (2 / (1 + r)) := by field_simp; ring
  induction n with
  | zero => simp [dcOutput_zero]
  | succ n ih =>
    rw [dcOutput_alternating_succ, ih]
    linear_combination -hfixed

theorem tendsto_dcOutput_const {r : ℝ} (hr0 : 0 ≤ r) (hr1 : r < 1) (D : ℝ) :
    Tendsto (dcOutput r fun _ => D) atTop (𝓝 0) := by
  rw [funext (dcOutput_const r D)]
  simpa using (tendsto_pow_atTop_nhds_zero_of_lt_one hr0 hr1).mul_const D

/-- R149 (d): the distance to the fixed point is a geometric sequence with a ratio in `(-1, 0]`. -/
theorem tendsto_dcOutput_alternating {r : ℝ} (hr0 : 0 ≤ r) (hr1 : r < 1) :
    Tendsto (fun n => (-1) ^ n * dcOutput r (fun n => (-1) ^ n) n) atTop (𝓝 (2 / (1 + r))) := by
  have hratio : Tendsto (fun n : ℕ => (-r) ^ n) atTop (𝓝 0) :=
    tendsto_pow_atTop_nhds_zero_of_abs_lt_one (by rwa [abs_neg, abs_of_nonneg hr0])
  have hne : 1 + r ≠ 0 := by positivity
  simpa [dcOutput_alternating hne] using
    (hratio.mul_const (1 - 2 / (1 + r))).const_add (2 / (1 + r))

/-- Settles O44: the closed forms of the three responses give the values and, as geometric sequences, the
limits. -/
theorem dcBlockerLaws : Obligations.DcBlockerLaws := by
  intro R hR0 hR1
  refine ⟨?silence, dcOutput_const R, tendsto_dcOutput_const hR0 hR1, ?impulse,
    dcOutput_impulse_succ R, tendsto_dcOutput_alternating hR0 hR1, ?overUnity⟩
  case silence => simp [dcOutput_const]
  case impulse => simp [dcOutput_zero]
  case overUnity =>
    rw [one_lt_div (by positivity)]
    linarith

end Sys2Proof.Machine
end

section
/-! PROOFS. The equal-power panner over the reals (43_panner.md R160 to R162): the gains are the cosine and
the sine of an angle that rises from 0 to a quarter turn with the pan. -/

namespace Sys2Proof.Machine

/-! ### The angle of a pan -/

@[simp] theorem realOps_halfPi : realOps.halfPi = Real.pi / 2 := rfl

theorem panAngle_realOps (p : ℝ) : panAngle realOps p = (p + 100) / 200 * (Real.pi / 2) := by
  simp [panAngle]

/-- The opposite pan has the complementary angle. -/
theorem panAngle_realOps_neg (p : ℝ) :
    panAngle realOps (-p) = Real.pi / 2 - panAngle realOps p := by
  rw [panAngle_realOps, panAngle_realOps]
  ring

theorem strictMono_panAngle_realOps : StrictMono (panAngle realOps) := by
  intro p q hpq
  rw [panAngle_realOps, panAngle_realOps]
  gcongr

theorem panAngle_realOps_hardLeft : panAngle realOps (-100) = 0 := by
  simp [panAngle_realOps]

theorem panAngle_realOps_hardRight : panAngle realOps 100 = Real.pi / 2 := by
  simpa [panAngle_realOps_hardLeft] using panAngle_realOps_neg (-100)

theorem panAngle_realOps_mapsTo :
    Set.MapsTo (panAngle realOps) (Set.Icc (-100) 100) (Set.Icc 0 (Real.pi / 2)) := by
  rw [← panAngle_realOps_hardLeft, ← panAngle_realOps_hardRight]
  exact strictMono_panAngle_realOps.monotone.mapsTo_Icc

/-! ### The two gains -/

theorem pan_realOps (p : ℝ) :
    pan realOps p = (Real.cos (panAngle realOps p), Real.sin (panAngle realOps p)) := rfl

theorem pan_realOps_power (p : ℝ) : (pan realOps p).1 ^ 2 + (pan realOps p).2 ^ 2 = 1 :=
  Real.cos_sq_add_sin_sq _

theorem pan_realOps_neg (p : ℝ) :
    pan realOps (-p) = ((pan realOps p).2, (pan realOps p).1) := by
  rw [pan_realOps, panAngle_realOps_neg, Real.cos_pi_div_two_sub, Real.sin_pi_div_two_sub,
    pan_realOps]

theorem pan_realOps_right_mem {p : ℝ} (hp : p ∈ Set.Icc (-100) 100) :
    (pan realOps p).2 ∈ Set.Icc 0 1 := by
  obtain ⟨hlo, hhi⟩ := panAngle_realOps_mapsTo hp
  exact ⟨Real.sin_nonneg_of_nonneg_of_le_pi hlo (by linarith [Real.pi_pos]), Real.sin_le_one _⟩

/-- The left gain is the right gain of the opposite pan. -/
theorem pan_realOps_left_mem {p : ℝ} (hp : p ∈ Set.Icc (-100) 100) :
    (pan realOps p).1 ∈ Set.Icc 0 1 := by
  obtain ⟨hlo, hhi⟩ := hp
  have hopposite := pan_realOps_right_mem (p := -p) ⟨neg_le_neg hhi, neg_le.mp hlo⟩
  rwa [pan_realOps_neg] at hopposite

theorem strictAntiOn_pan_realOps_left :
    StrictAntiOn (fun p => (pan realOps p).1) (Set.Icc (-100) 100) := by
  have hquarter : Set.Icc 0 (Real.pi / 2) ⊆ Set.Icc 0 Real.pi :=
    Set.Icc_subset_Icc_right (by linarith [Real.pi_pos])
  exact (Real.strictAntiOn_cos.mono hquarter).comp_strictMonoOn
    (strictMono_panAngle_realOps.strictMonoOn _) panAngle_realOps_mapsTo

theorem strictMonoOn_pan_realOps_right :
    StrictMonoOn (fun p => (pan realOps p).2) (Set.Icc (-100) 100) := by
  have hquarter : Set.Icc 0 (Real.pi / 2) ⊆ Set.Icc (-(Real.pi / 2)) (Real.pi / 2) :=
    Set.Icc_subset_Icc_left (by linarith [Real.pi_pos])
  exact (Real.strictMonoOn_sin.mono hquarter).comp
    (strictMono_panAngle_realOps.strictMonoOn _) panAngle_realOps_mapsTo

/-- Settles O47: the laws of cosine and sine on the first quarter turn, which the angle does not leave. -/
theorem panKeepsPower : Obligations.PanKeepsPower :=
  ⟨fun p hp => ⟨pan_realOps_power p, pan_realOps_left_mem hp, pan_realOps_right_mem hp,
    pan_realOps_neg p⟩, strictAntiOn_pan_realOps_left, strictMonoOn_pan_realOps_right⟩

/-! ### The stated values -/

theorem pan_realOps_of_angle {p θ : ℝ} (h : (p + 100) / 200 * (Real.pi / 2) = θ) :
    pan realOps p = (Real.cos θ, Real.sin θ) := by
  rw [pan_realOps, panAngle_realOps, h]

theorem pan_realOps_hardLeft : pan realOps (-100) = (1, 0) := by
  simp [pan_realOps, panAngle_realOps_hardLeft]

theorem pan_realOps_halfLeft :
    pan realOps (-50) = (Real.cos (Real.pi / 8), Real.sin (Real.pi / 8)) :=
  pan_realOps_of_angle (by ring)

/-- Half a square root is within `ε` of `d` when its radicand is between the squares of `2 * (d - ε)` and
`2 * (d + ε)`. -/
theorem abs_half_sqrt_sub_lt {a d ε : ℝ} (hd : 0 ≤ d - ε) (hε : 0 < ε)
    (hlo : (2 * (d - ε)) ^ 2 < a) (hhi : a < (2 * (d + ε)) ^ 2) : |√a / 2 - d| < ε := by
  have hlow : 2 * (d - ε) < √a := Real.lt_sqrt_of_sq_lt hlo
  have hhigh : √a < 2 * (d + ε) := (Real.sqrt_lt' (by linarith)).mpr hhi
  rw [abs_sub_lt_iff]
  constructor <;> linarith

/-- Nine decimals of `√2`, for the eight decimals of the gains. -/
theorem sqrt_two_mem : √2 ∈ Set.Ioo (1.414213562 : ℝ) 1.414213563 :=
  ⟨Real.lt_sqrt_of_sq_lt (by norm_num), (Real.sqrt_lt' (by norm_num)).mpr (by norm_num)⟩

theorem cos_pi_div_eight_decimals : |Real.cos (Real.pi / 8) - 0.92387953| < 1 / 10 ^ 8 := by
  obtain ⟨hlo, hhi⟩ := sqrt_two_mem
  rw [Real.cos_pi_div_eight]
  exact abs_half_sqrt_sub_lt (by norm_num) (by norm_num) (by linarith) (by linarith)

theorem sin_pi_div_eight_decimals : |Real.sin (Real.pi / 8) - 0.38268343| < 1 / 10 ^ 8 := by
  obtain ⟨hlo, hhi⟩ := sqrt_two_mem
  rw [Real.sin_pi_div_eight]
  exact abs_half_sqrt_sub_lt (by norm_num) (by norm_num) (by linarith) (by linarith)

/-- Settles O46: each value by its angle, those right of the centre by the swap of the gains. -/
theorem panGainValues : Obligations.PanGainValues := by
  refine ⟨pan_realOps_hardLeft, ?hardRight, ?centre, pan_realOps_halfLeft, ?halfRight,
    cos_pi_div_eight_decimals, sin_pi_div_eight_decimals, ?thirdLeft⟩
  case hardRight => simpa [pan_realOps_hardLeft] using pan_realOps_neg (-100)
  case centre =>
    rw [pan_realOps_of_angle (θ := Real.pi / 4) (by ring), Real.cos_pi_div_four,
      Real.sin_pi_div_four]
  case halfRight => simpa only [neg_neg, pan_realOps_halfLeft] using pan_realOps_neg (-50)
  case thirdLeft =>
    rw [pan_realOps_of_angle (θ := Real.pi / 6) (by ring), Real.cos_pi_div_six, Real.sin_pi_div_six]

end Sys2Proof.Machine
end

section
/-! PROOFS. The three saturation curves over the reals and their bounds by the threshold
(44_saturation.md R170 to R175). The Soft and Tube curves follow from a few facts on `tanh`; the Hard curve
from its pieces. -/

namespace Sys2Proof.Machine

open Filter Topology

/-! ### The hyperbolic tangent -/

/-- `artanh`, which inverts `tanh`, is strictly increasing. -/
theorem strictMono_tanh : StrictMono Real.tanh := by
  intro x y hxy
  have hmem (z : ℝ) : Real.tanh z ∈ Set.Ioo (-1) 1 := ⟨Real.neg_one_lt_tanh z, Real.tanh_lt_one z⟩
  rwa [← Real.artanh_lt_artanh_iff (hmem x) (hmem y), Real.artanh_tanh, Real.artanh_tanh]

theorem continuous_tanh : Continuous Real.tanh := by
  have hquot : Real.tanh = fun x => Real.sinh x / Real.cosh x := funext Real.tanh_eq_sinh_div_cosh
  rw [hquot]
  exact Real.continuous_sinh.div Real.continuous_cosh fun x => (Real.cosh_pos x).ne'

theorem tanh_eq_exp_two_mul (x : ℝ) :
    Real.tanh x = (Real.exp (2 * x) - 1) / (Real.exp (2 * x) + 1) := by
  rw [Real.tanh_eq, two_mul, Real.exp_add, Real.exp_neg]
  field_simp

theorem tanh_nonneg {x : ℝ} (hx : 0 ≤ x) : 0 ≤ Real.tanh x := by
  simpa using strictMono_tanh.monotone hx

theorem tanh_neg_of_neg {x : ℝ} (hx : x < 0) : Real.tanh x < 0 := by
  simpa using strictMono_tanh hx

/-- The bound `2 * u / (u + 2) < log (1 + u)` at `1 + u = exp (2 * x)`. -/
theorem tanh_lt_self {x : ℝ} (hx : 0 < x) : Real.tanh x < x := by
  have hexp : 0 < Real.exp (2 * x) - 1 := sub_pos.mpr (Real.one_lt_exp_iff.mpr (by positivity))
  have hlog := Real.lt_log_one_add_of_pos hexp
  rw [add_sub_cancel, Real.log_exp, mul_div_assoc] at hlog
  calc Real.tanh x
      = (Real.exp (2 * x) - 1) / (Real.exp (2 * x) - 1 + 2) := by
        rw [tanh_eq_exp_two_mul]
        ring
    _ < x := lt_of_mul_lt_mul_left hlog zero_le_two

theorem tanh_ne_self {x : ℝ} (hx : x ≠ 0) : Real.tanh x ≠ x := by
  rcases hx.lt_or_gt with hneg | hpos
  · have hopposite := tanh_lt_self (neg_pos.mpr hneg)
    rw [Real.tanh_neg, neg_lt_neg_iff] at hopposite
    exact hopposite.ne'
  · exact (tanh_lt_self hpos).ne

/-- A decimal of `tanh x` by bounds that are linear in `exp (2 * x)`. -/
theorem abs_tanh_sub_lt {x d ε : ℝ}
    (hlo : (d - ε) * (Real.exp (2 * x) + 1) < Real.exp (2 * x) - 1)
    (hhi : Real.exp (2 * x) - 1 < (d + ε) * (Real.exp (2 * x) + 1)) : |Real.tanh x - d| < ε := by
  have hden : 0 < Real.exp (2 * x) + 1 := by positivity
  have hlow : d - ε < Real.tanh x := by rwa [tanh_eq_exp_two_mul, lt_div_iff₀ hden]
  have hhigh : Real.tanh x < d + ε := by rwa [tanh_eq_exp_two_mul, div_lt_iff₀ hden]
  rw [abs_sub_lt_iff]
  constructor <;> linarith

/-! ### The Soft curve -/

theorem sat_soft_realOps : sat realOps .soft = Real.tanh := rfl

theorem tanh_half_eight_decimals : |Real.tanh (1 / 2) - 0.46211716| < 1 / 10 ^ 8 := by
  have hexp : Real.exp (2 * (1 / 2)) = Real.exp 1 := by norm_num
  apply abs_tanh_sub_lt <;> rw [hexp] <;> linarith [Real.exp_one_gt_d9, Real.exp_one_lt_d9]

theorem tanh_one_eight_decimals : |Real.tanh 1 - 0.76159416| < 1 / 10 ^ 8 := by
  have hexp : Real.exp (2 * 1) = Real.exp 1 ^ 2 := by rw [← Real.exp_nat_mul, Nat.cast_two]
  have hlo : (2.7182818283 : ℝ) ^ 2 < Real.exp 1 ^ 2 := by gcongr; exact Real.exp_one_gt_d9
  have hhi : Real.exp 1 ^ 2 < (2.7182818286 : ℝ) ^ 2 := by gcongr; exact Real.exp_one_lt_d9
  apply abs_tanh_sub_lt <;> rw [hexp] <;> linarith

/-- Settles O48: the Soft curve is `tanh`, so each law is one of `tanh`. -/
theorem softCurveLaws : Obligations.SoftCurveLaws := by
  unfold Obligations.SoftCurveLaws
  rw [sat_soft_realOps]
  exact ⟨fun _ => rfl, Real.tanh_zero, Real.tanh_neg, strictMono_tanh, Real.abs_tanh_lt_one,
    fun _ => tanh_ne_self, tanh_one_eight_decimals, tanh_half_eight_decimals⟩

/-! ### The Tube curve -/

section
variable {x : ℝ}

theorem sat_tube_realOps (x : ℝ) : sat realOps .tube x =
    if 0 ≤ x then Real.tanh (0.8 * x) * 1.1 else Real.tanh (1.2 * x) * 0.9 :=
  satTube_realOps x

theorem sat_tube_realOps_of_nonneg (hx : 0 ≤ x) :
    sat realOps .tube x = Real.tanh (0.8 * x) * 1.1 := by
  rw [sat_tube_realOps, if_pos hx]

theorem sat_tube_realOps_of_neg (hx : x < 0) :
    sat realOps .tube x = Real.tanh (1.2 * x) * 0.9 := by
  rw [sat_tube_realOps, if_neg hx.not_ge]

theorem strictMono_tanh_scaled {k g : ℝ} (hk : 0 < k) (hg : 0 < g) :
    StrictMono fun x => Real.tanh (k * x) * g :=
  (strictMono_tanh.comp (strictMono_mul_left_of_pos hk)).mul_const hg

theorem strictMonoOn_sat_tube_nonneg : StrictMonoOn (sat realOps .tube) (Set.Ici 0) :=
  ((strictMono_tanh_scaled (by norm_num) (by norm_num)).strictMonoOn _).congr
    fun _ hx => (sat_tube_realOps_of_nonneg hx).symm

theorem strictMonoOn_sat_tube_neg : StrictMonoOn (sat realOps .tube) (Set.Iio 0) :=
  ((strictMono_tanh_scaled (by norm_num) (by norm_num)).strictMonoOn _).congr
    fun _ hx => (sat_tube_realOps_of_neg hx).symm

/-- The two branches are continuous and meet at 0. -/
theorem continuous_sat_tube : Continuous (sat realOps .tube) := by
  have hbranch (k g : ℝ) : Continuous fun x => Real.tanh (k * x) * g :=
    (continuous_tanh.comp (continuous_const_mul k)).mul_const g
  rw [funext sat_tube_realOps]
  refine (hbranch 0.8 1.1).if_le (hbranch 1.2 0.9) continuous_const continuous_id fun x hx => ?_
  simp [← hx]

theorem sat_tube_realOps_mem (x : ℝ) : sat realOps .tube x ∈ Set.Ioo (-0.9) 1.1 := by
  rcases lt_or_ge x 0 with hneg | hnonneg
  · have htanh := tanh_neg_of_neg (x := 1.2 * x) (by linarith)
    rw [sat_tube_realOps_of_neg hneg]
    constructor <;> linarith [Real.neg_one_lt_tanh (1.2 * x)]
  · have htanh := tanh_nonneg (x := 0.8 * x) (by linarith)
    rw [sat_tube_realOps_of_nonneg hnonneg]
    constructor <;> linarith [Real.tanh_lt_one (0.8 * x)]

/-- Where the inner `tanh` is 0.95 the curve is 1.045. -/
theorem exists_one_lt_sat_tube : ∃ x, 1 < sat realOps .tube x := by
  have hpos : 0 ≤ Real.artanh 0.95 / 0.8 := div_nonneg (Real.artanh_nonneg (by norm_num)) (by norm_num)
  refine ⟨Real.artanh 0.95 / 0.8, ?_⟩
  rw [sat_tube_realOps_of_nonneg hpos, mul_div_cancel₀ _ (by norm_num),
    Real.tanh_artanh (by norm_num)]
  norm_num

/-- Settles O49: each branch is a scaled `tanh`. An input whose output is above 1 shows that the curve is not
odd, since no output is below -0.9. -/
theorem tubeCurveLaws : Obligations.TubeCurveLaws := by
  obtain ⟨x, hover⟩ := exists_one_lt_sat_tube
  refine ⟨fun _ => sat_tube_realOps_of_nonneg, fun _ => sat_tube_realOps_of_neg, ?zero,
    strictMonoOn_sat_tube_nonneg, strictMonoOn_sat_tube_neg, continuous_sat_tube.continuousAt,
    sat_tube_realOps_mem, ⟨x, hover⟩, x, ?notOdd⟩
  case zero => simp [sat_tube_realOps]
  case notOdd =>
    obtain ⟨hlow, -⟩ := sat_tube_realOps_mem (-x)
    intro hodd
    linarith

/-! ### The Hard curve -/

theorem sat_hard_realOps (x : ℝ) : sat realOps .hard x =
    if |x| ≤ 0.8 then x
    else if x < 0 then -hardMagnitude realOps |x| else hardMagnitude realOps |x| :=
  satHard_realOps x

theorem sat_hard_realOps_of_abs_le (hx : |x| ≤ 0.8) : sat realOps .hard x = x := by
  rw [sat_hard_realOps, if_pos hx]

theorem sat_hard_realOps_of_gt (hx : 0.8 < x) : sat realOps .hard x = hardMagnitude realOps x := by
  have hpos : 0 < x := by linarith
  rw [sat_hard_realOps, abs_of_pos hpos, if_neg hx.not_ge, if_neg hpos.not_gt]

theorem sat_hard_realOps_knee (hlo : 0.8 < x) (hhi : x ≤ 1) :
    sat realOps .hard x = 0.8 + (x - 0.8) * 0.5 := by
  rw [sat_hard_realOps_of_gt hlo, hardMagnitude_realOps, if_pos hhi]

theorem sat_hard_realOps_clamp (hx : 1 < x) : sat realOps .hard x = 1 := by
  rw [sat_hard_realOps_of_gt (by linarith), hardMagnitude_realOps, if_neg hx.not_ge]

theorem sat_hard_realOps_neg (x : ℝ) : sat realOps .hard (-x) = -sat realOps .hard x := by
  rw [sat_hard_realOps, sat_hard_realOps, abs_neg]
  by_cases hlinear : |x| ≤ 0.8
  · rw [if_pos hlinear, if_pos hlinear]
  · rw [if_neg hlinear, if_neg hlinear]
    have hne : x ≠ 0 := by
      rintro rfl
      norm_num at hlinear
    rcases hne.lt_or_gt with hneg | hpos
    · simp [hneg, hneg.not_gt]
    · simp [hpos, hpos.not_gt]

theorem abs_hardMagnitude_realOps_le {a : ℝ} (ha : 0.8 < a) : |hardMagnitude realOps a| ≤ 1 := by
  rw [hardMagnitude_realOps, abs_le]
  split_ifs with hknee
  · constructor <;> linarith
  · constructor <;> norm_num

theorem abs_sat_hard_realOps_le (x : ℝ) : |sat realOps .hard x| ≤ 1 := by
  rw [sat_hard_realOps]
  split_ifs with hlinear hneg
  · linarith
  · rw [abs_neg]
    exact abs_hardMagnitude_realOps_le (not_le.mp hlinear)
  · exact abs_hardMagnitude_realOps_le (not_le.mp hlinear)

theorem sat_hard_realOps_one : sat realOps .hard 1 = 0.9 := by
  rw [sat_hard_realOps_knee] <;> norm_num

theorem sat_hard_realOps_nine_tenths : sat realOps .hard 0.9 = 0.85 := by
  rw [sat_hard_realOps_knee] <;> norm_num

/-- R173: the limit from the right is 1, the value 0.9. -/
theorem not_continuousAt_sat_hard_one : ¬ ContinuousAt (sat realOps .hard) 1 := by
  intro hcont
  have hvalue : Tendsto (sat realOps .hard) (𝓝[>] 1) (𝓝 0.9) := by
    rw [← sat_hard_realOps_one]
    exact hcont.tendsto.mono_left nhdsWithin_le_nhds
  have hright : Tendsto (sat realOps .hard) (𝓝[>] 1) (𝓝 1) :=
    tendsto_const_nhds.congr' (eventually_nhdsWithin_of_forall fun _ hx =>
      (sat_hard_realOps_clamp hx).symm)
  have hjump : (0.9 : ℝ) = 1 := tendsto_nhds_unique hvalue hright
  norm_num at hjump

/-- Settles O50: the pieces, the symmetry and the jump of the Hard curve. -/
theorem hardCurveLaws : Obligations.HardCurveLaws :=
  ⟨fun _ => sat_hard_realOps_of_abs_le, fun _ => sat_hard_realOps_knee,
    fun _ => sat_hard_realOps_clamp, sat_hard_realOps_neg, abs_sat_hard_realOps_le,
    sat_hard_realOps_nine_tenths, sat_hard_realOps_one,
    (sat_hard_realOps_neg 0.9).trans (congrArg Neg.neg sat_hard_realOps_nine_tenths),
    not_continuousAt_sat_hard_one⟩

end

/-! ### The curves scaled by the threshold -/

theorem satN_realOps (sel : SatCurve) (v thr : ℝ) :
    satN realOps sel v thr = sat realOps sel (v / thr) * thr := rfl

/-- The magnitude of the scaled curve is the curve's magnitude times the threshold. -/
theorem abs_satN_realOps (sel : SatCurve) (v : ℝ) {thr : ℝ} (hthr : 0 < thr) :
    |satN realOps sel v thr| = |sat realOps sel (v / thr)| * thr := by
  rw [satN_realOps, abs_mul, abs_of_pos hthr]

/-- Settles O51: the bounds of the three curves, times the threshold. -/
theorem curveBoundsByThreshold : Obligations.CurveBoundsByThreshold := by
  intro v thr hthr
  obtain ⟨hlow, hhigh⟩ := sat_tube_realOps_mem (v / thr)
  refine ⟨?soft, ?hard, mul_lt_mul_of_pos_right hlow hthr, mul_lt_mul_of_pos_right hhigh hthr⟩
  case soft =>
    rw [abs_satN_realOps _ _ hthr]
    exact mul_lt_of_lt_one_left hthr (Real.abs_tanh_lt_one _)
  case hard =>
    rw [abs_satN_realOps _ _ hthr]
    exact mul_le_of_le_one_left hthr.le (abs_sat_hard_realOps_le _)

end Sys2Proof.Machine
end

section
/-! PROOFS. The limiter (45_limiter.md R183 to R188, R192): its envelope and its gain over the reals, the
machine's steps as those over the reals, and the two kinds of frame that repeat themselves, the
transparent one and the one with the curve engaged. -/

namespace Sys2Proof.Machine

/-! ### The envelope and the gain over the reals

Both registers move as the smoother does (40_smoother.md R121), so its laws give theirs. -/

@[simp] theorem realOps_max (a b : ℝ) : realOps.max a b = max a b := rfl

theorem peakOf_realOps (l r : ℝ) : peakOf realOps l r = max |l| |r| := by simp [peakOf]

theorem peakOf_realOps_nonneg (l r : ℝ) : 0 ≤ peakOf realOps l r := by
  rw [peakOf_realOps]
  exact le_max_of_le_left (abs_nonneg l)

theorem envStep_realOps (K : Coeffs ℝ) (env peak : ℝ) :
    envStep realOps K env peak = if env < peak then K.cA else K.cRl := by simp [envStep]

theorem envNext_realOps (K : Coeffs ℝ) (env peak : ℝ) :
    envNext realOps K env peak = smooth realOps (if env < peak then K.cA else K.cRl) env peak := by
  rw [← envStep_realOps]
  rfl

/-- R184: with steps in their range an interval that holds the old envelope and the peak holds the new
envelope. -/
theorem envNext_realOps_mem_Icc {K : Coeffs ℝ} {env peak lo hi : ℝ} (hcRl : 0 < K.cRl)
    (hle : K.cRl ≤ K.cA) (hcA : K.cA ≤ 1) (henv : env ∈ Set.Icc lo hi)
    (hpeak : peak ∈ Set.Icc lo hi) :
    envNext realOps K env peak ∈ Set.Icc lo hi := by
  rw [envNext_realOps]
  split_ifs with habove
  · exact smooth_mem_Icc (hcRl.le.trans hle) hcA henv hpeak
  · exact smooth_mem_Icc hcRl.le (hle.trans hcA) henv hpeak

/-- Settles O52: the envelope is the smoother with the attack step above it and the release step from it
down. -/
theorem envelopeLaws : Obligations.EnvelopeLaws := by
  intro K env l r hcRl hle hcA henv peak env'
  have hpeak : 0 ≤ peak := peakOf_realOps_nonneg l r
  obtain ⟨hlow, hhigh⟩ : env' ∈ Set.Icc (min env peak) (max env peak) :=
    envNext_realOps_mem_Icc hcRl hle hcA ⟨min_le_left _ _, le_max_left _ _⟩
      ⟨min_le_right _ _, le_max_right _ _⟩
  have hstep : env' = env + (if env < peak then K.cA else K.cRl) * (peak - env) :=
    envNext_realOps K env peak
  refine ⟨peakOf_realOps l r, hpeak, fun habove => ?attack, fun hbelow => ?release, hlow, hhigh,
    (le_min henv hpeak).trans hlow, fun hequal => ?still⟩
  case attack => rw [hstep, if_pos habove]
  case release => rw [hstep, if_neg hbelow.not_gt]
  case still => rw [hstep, hequal, sub_self, mul_zero, add_zero]

section
variable {env thr : ℝ}

theorem gainTarget_realOps_of_le (h : env ≤ thr) : gainTarget realOps env thr = 1 := by
  simp [gainTarget, h]

theorem gainTarget_realOps_of_lt (h : thr < env) : gainTarget realOps env thr = thr / env := by
  simp [gainTarget, h.not_ge]

theorem gainTarget_realOps_lt_one (hthr : 0 < thr) (h : thr < env) :
    gainTarget realOps env thr < 1 := by
  rw [gainTarget_realOps_of_lt h]
  exact (div_lt_one (hthr.trans h)).mpr h

theorem gainTarget_realOps_mem (hthr : 0 < thr) (env : ℝ) :
    gainTarget realOps env thr ∈ Set.Ioc 0 1 := by
  obtain hle | hlt := le_or_gt env thr
  · rw [gainTarget_realOps_of_le hle]
    exact ⟨one_pos, le_rfl⟩
  · refine ⟨?_, (gainTarget_realOps_lt_one hthr hlt).le⟩
    rw [gainTarget_realOps_of_lt hlt]
    exact div_pos hthr (hthr.trans hlt)

end

/-- Settles O53: the two branches of the target, and the second at the example's values. -/
theorem targetGainLaw : Obligations.TargetGainLaw := by
  intro env thr hthr
  refine ⟨gainTarget_realOps_of_le, fun hlt => ⟨gainTarget_realOps_of_lt hlt,
    (gainTarget_realOps_mem hthr env).1, gainTarget_realOps_lt_one hthr hlt⟩, ?halved⟩
  case halved =>
    rw [gainTarget_realOps_of_lt (by norm_num)]
    norm_num

section
variable {K : Coeffs ℝ} {gr target : ℝ}

theorem gainNext_realOps (K : Coeffs ℝ) (gr target : ℝ) :
    gainNext realOps K gr target = smooth realOps K.cG gr target := rfl

/-- R186: the new gain is a point of the segment from the gain to its target. -/
theorem gainNext_realOps_mem (hcG : 0 < K.cG) (hcG1 : K.cG ≤ 1) (hgr : gr ∈ Set.Ioc 0 1)
    (htarget : target ∈ Set.Ioc 0 1) : gainNext realOps K gr target ∈ Set.Ioc 0 1 :=
  (convex_Ioc (0 : ℝ) 1).add_smul_sub_mem hgr htarget ⟨hcG.le, hcG1⟩

/-- R188: any step towards a target below 1 brings the gain below 1. -/
theorem gainNext_realOps_lt_one_of_target (hcG : 0 < K.cG) (hcG1 : K.cG ≤ 1) (hgr : gr ≤ 1)
    (htarget : target < 1) : gainNext realOps K gr target < 1 := by
  rw [gainNext_realOps, smooth_realOps]
  have hpull : K.cG * (target - 1) < 0 := mul_neg_of_pos_of_neg hcG (sub_neg.mpr htarget)
  have hkeep : (1 - K.cG) * (gr - 1) ≤ 0 :=
    mul_nonpos_of_nonneg_of_nonpos (sub_nonneg.mpr hcG1) (sub_nonpos.mpr hgr)
  linarith

/-- R301: a step short of its target leaves a gain below 1 there. -/
theorem gainNext_realOps_lt_one_of_gain (hcG : 0 < K.cG) (hcG1 : K.cG < 1) (hgr : gr < 1)
    (htarget : target ≤ 1) : gainNext realOps K gr target < 1 := by
  rw [gainNext_realOps, smooth_realOps]
  have hpull : K.cG * (target - 1) ≤ 0 :=
    mul_nonpos_of_nonneg_of_nonpos hcG.le (sub_nonpos.mpr htarget)
  have hkeep : (1 - K.cG) * (gr - 1) < 0 :=
    mul_neg_of_pos_of_neg (sub_pos.mpr hcG1) (sub_neg.mpr hgr)
  linarith

end

/-- Settles O54: the gain is the smoother with the one coefficient `cG`. -/
theorem smoothedGainLaw : Obligations.SmoothedGainLaw :=
  fun _ _ _ hcG hcG1 hgr hgr1 htarget htarget1 =>
    ⟨rfl, gainNext_realOps_mem hcG hcG1 ⟨hgr, hgr1⟩ ⟨htarget, htarget1⟩⟩

theorem engaged_realOps_iff (gr env thr : ℝ) :
    engaged realOps gr env thr = true ↔ gr < 1 ∨ thr < env := by simp [engaged]

/-- Settles O55: an envelope above the threshold gives a target below 1; a gain below 1 engages the
curve. -/
theorem curveStaysEngaged : Obligations.CurveStaysEngaged := by
  intro K gr env thr hcG hcG1 hgr hgr1 hthr gr'
  refine ⟨fun habove => ?pulled, fun hshort hbelow => ?kept⟩
  case pulled =>
    exact gainNext_realOps_lt_one_of_target hcG hcG1 hgr1 (gainTarget_realOps_lt_one hthr habove)
  case kept =>
    have hgain : gr' < 1 :=
      gainNext_realOps_lt_one_of_gain hcG hshort hbelow (gainTarget_realOps_mem hthr env).2
    exact ⟨hgain, (engaged_realOps_iff gr' env thr).mpr (.inl hgain)⟩

/-! ### The machine's steps in exact arithmetic are those over the reals -/

/-- The real values of the coefficients. -/
noncomputable def realCoeffs (K : Coeffs NumVal) : Coeffs ℝ where
  cR := realValue K.cR
  cS := realValue K.cS
  cA := realValue K.cA
  cRl := realValue K.cRl
  cG := realValue K.cG

theorem realValue_envNext_eq_realOps (K : Coeffs NumVal) (env peak : NumVal) :
    realValue (envNext exactOps K env peak) =
      envNext realOps (realCoeffs K) (realValue env) (realValue peak) := by
  rw [realValue_envNext, envNext_realOps]
  rfl

theorem realValue_gainNext_eq_realOps (K : Coeffs NumVal) (gr env thr : NumVal) :
    realValue (gainNext exactOps K gr (gainTarget exactOps env thr)) =
      gainNext realOps (realCoeffs K) (realValue gr)
        (gainTarget realOps (realValue env) (realValue thr)) := by
  rw [realValue_gainNext, realValue_gainTarget]
  simp [gainNext, gainTarget, realCoeffs]

theorem realValue_satN_eq_realOps (sel : SatCurve) (v thr : NumVal) :
    realValue (satN exactOps sel v thr) = satN realOps sel (realValue v) (realValue thr) := by
  rw [realValue_satN, realValue_sat, realValue_exactDiv, satN_realOps]

/-- R36: the ranges required of the open steps, by the real values. -/
theorem stepsInRange_exactOps_iff (K : Coeffs NumVal) : stepsInRange exactOps K = true ↔
    (0 < realValue K.cRl ∧ realValue K.cRl ≤ realValue K.cA ∧ realValue K.cA ≤ 1) ∧
      0 < realValue K.cG ∧ realValue K.cG ≤ 1 := by
  simp [stepsInRange, exactLt_iff, exactLe_iff, and_assoc]

theorem gainTarget_exactOps_of_le {env thr : NumVal} (h : realValue env ≤ realValue thr) :
    gainTarget exactOps env thr = .rat 1 :=
  if_pos ((exactLe_iff env thr).mpr h)

/-- R186: a gain at its target of 1 does not move. -/
theorem gainNext_exactOps_one (K : Coeffs NumVal) :
    gainNext exactOps K (.rat 1) (.rat 1) = .rat 1 := by
  simp [gainNext]

/-- R192: with the gain 1 and the envelope within the threshold a side is its delayed sample. -/
theorem limitSide_exactOps_transparent (sel : SatCurve) {env thr : NumVal} (d : NumVal)
    (h : realValue env ≤ realValue thr) : limitSide exactOps sel (.rat 1) env thr d = d := by
  have hidle : ¬ engaged exactOps (.rat 1) env thr = true := by
    simp [engaged_exactOps_iff, h]
  calc limitSide exactOps sel (.rat 1) env thr d
      = exactMul d (.rat 1) := if_neg hidle
    _ = d := exactMul_one_right d

/-- R188: with a gain below 1 a side passes the curve. -/
theorem limitSide_exactOps_engaged (sel : SatCurve) {gr : NumVal} (env thr d : NumVal)
    (h : realValue gr < 1) :
    limitSide exactOps sel gr env thr d = satN exactOps sel (exactMul d gr) thr :=
  if_pos ((engaged_exactOps_iff gr env thr).mpr (.inl h))

/-! ### What `LIMIT` computes in exact arithmetic -/

section
variable {C : Cfg} (harith : C.arith = .exactReals) (a : Stereo)
include harith

theorem limit_env : (limit C a).inst.env =
    envNext exactOps a.inst.coef a.inst.env (peakOf exactOps a.l a.r) := by
  rw [limit_inst, arithOps_exact harith]

theorem limit_gr : (limit C a).inst.gr = gainNext exactOps a.inst.coef a.inst.gr
    (gainTarget exactOps (limit C a).inst.env a.inst.thr) := by
  rw [limit_inst, arithOps_exact harith]

/-- R187, R188: both sides, from the gain and the envelope after their update. -/
theorem limit_sides :
    (limit C a).l = limitSide exactOps a.inst.latched.sat (limit C a).inst.gr (limit C a).inst.env
      a.inst.thr (laRead C 0 (laWrite a.l a.r a.inst)) ∧
    (limit C a).r = limitSide exactOps a.inst.latched.sat (limit C a).inst.gr (limit C a).inst.env
      a.inst.thr (laRead C 1 (laWrite a.l a.r a.inst)) := by
  rw [← arithOps_exact harith]
  exact ⟨rfl, rfl⟩

/-- R192: where the update leaves the gain 1 and the envelope within the threshold. -/
theorem limit_transparent (hgr : (limit C a).inst.gr = .rat 1)
    (henv : realValue (limit C a).inst.env ≤ realValue a.inst.thr) :
    (limit C a).l = laRead C 0 (laWrite a.l a.r a.inst) ∧
    (limit C a).r = laRead C 1 (laWrite a.l a.r a.inst) := by
  obtain ⟨hl, hr⟩ := limit_sides harith a
  rw [hl, hr, hgr]
  exact ⟨limitSide_exactOps_transparent _ _ henv, limitSide_exactOps_transparent _ _ henv⟩

/-- R184: an envelope and a mix within the threshold leave the envelope within the threshold. -/
theorem limit_env_mem (hsteps : stepsInRange exactOps a.inst.coef = true)
    (henv : realValue a.inst.env ∈ Set.Icc 0 (realValue a.inst.thr))
    (hl : |realValue a.l| ≤ realValue a.inst.thr) (hr : |realValue a.r| ≤ realValue a.inst.thr) :
    realValue (limit C a).inst.env ∈ Set.Icc 0 (realValue a.inst.thr) := by
  obtain ⟨⟨hcRl, hle, hcA⟩, -⟩ := (stepsInRange_exactOps_iff _).mp hsteps
  have hpeak : realValue (peakOf exactOps a.l a.r) ∈ Set.Icc 0 (realValue a.inst.thr) := by
    rw [realValue_peakOf]
    exact ⟨le_max_of_le_left (abs_nonneg _), max_le hl hr⟩
  rw [limit_env harith, realValue_envNext_eq_realOps]
  exact envNext_realOps_mem_Icc hcRl hle hcA henv hpeak

/-- R185, R186: within the threshold the target of the gain is 1, so a gain of 1 stays. -/
theorem limit_gr_one (hgr : a.inst.gr = .rat 1)
    (henv : realValue (limit C a).inst.env ≤ realValue a.inst.thr) :
    (limit C a).inst.gr = .rat 1 := by
  rw [limit_gr harith, gainTarget_exactOps_of_le henv, hgr, gainNext_exactOps_one]

/-- R186, R301: with `cG` below 1 a gain strictly between 0 and 1 stays there, whatever enters. -/
theorem limit_gr_mem (hcG : 0 < realValue a.inst.coef.cG) (hcG1 : realValue a.inst.coef.cG < 1)
    (hthr : 0 < realValue a.inst.thr) (hgr : 0 < realValue a.inst.gr)
    (hgr1 : realValue a.inst.gr < 1) : realValue (limit C a).inst.gr ∈ Set.Ioo 0 1 := by
  have htarget := gainTarget_realOps_mem hthr (realValue (limit C a).inst.env)
  rw [limit_gr harith, realValue_gainNext_eq_realOps]
  exact ⟨(gainNext_realOps_mem hcG hcG1.le ⟨hgr, hgr1.le⟩ htarget).1,
    gainNext_realOps_lt_one_of_gain hcG hcG1 hgr1 htarget.2⟩

end

/-- Settles O38: the curve is not engaged, and the factor 1 is the word 1. -/
theorem transparentLimiterIsADelay : Obligations.TransparentLimiterIsADelay :=
  fun _ a harith hgr henv => limit_transparent harith a hgr ((exactLe_iff _ _).mp henv)

/-- Settles O59: the envelope stays within the threshold, so the gain stays 1 and the frame is
transparent. -/
theorem limiterStaysTransparent : Obligations.LimiterStaysTransparent := by
  intro C a harith hgr hsteps henv0 henv hl hr
  obtain ⟨henv0', henv'⟩ := limit_env_mem harith a hsteps ⟨henv0, henv⟩ hl hr
  have hgr' := limit_gr_one harith a hgr henv'
  exact ⟨hgr', henv0', henv', limit_transparent harith a hgr' henv'⟩

/-- Settles O60: the gain stays below 1, so both sides pass the curve, whose bounds are those of
`curveBoundsByThreshold`. -/
theorem limiterStaysEngaged : Obligations.LimiterStaysEngaged := by
  intro C a harith hsteps hcG1 hthr hgr hgr1 o d
  obtain ⟨-, hcG, -⟩ := (stepsInRange_exactOps_iff _).mp hsteps
  obtain ⟨hgr', hgr1'⟩ := limit_gr_mem harith a hcG hcG1 hthr hgr hgr1
  obtain ⟨hl, hr⟩ := limit_sides harith a
  rw [limitSide_exactOps_engaged _ _ _ _ hgr1'] at hl hr
  refine ⟨hgr', hgr1', hl, hr, fun v hv => ?_⟩
  have hcurve : ∃ w, v = satN exactOps a.inst.latched.sat w a.inst.thr := by
    obtain rfl | rfl : v = o.l ∨ v = o.r := by simpa using hv
    · exact ⟨_, hl⟩
    · exact ⟨_, hr⟩
  obtain ⟨w, rfl⟩ := hcurve
  obtain ⟨hsoft, hhard, htube⟩ := curveBoundsByThreshold (realValue w) _ hthr
  rw [realValue_satN_eq_realOps]
  cases a.inst.latched.sat with
  | soft => exact hsoft
  | hard => exact hhard
  | tube => exact htube

end Sys2Proof.Machine
end

section
/-! PROOFS. The two length commands at any rate (45_limiter.md R191, 42_feedback_dcblock.md R146;
log 9). -/

namespace Sys2Proof.Machine

/-- Everything `WRP.LOOKAHEAD` does to the registers; which sample count it clamps is left open. -/
theorem setLookahead_inst (v : Raw) (s : State) : ∃ count, (setLookahead v s).inst =
    { s.inst with
      raw := { s.inst.raw with lookahead := v }
      fs := s.hostFs
      coef := (rateCoef s).1
      laLen := clampLookahead s.cfg count } :=
  ⟨_, rfl⟩

/-- Everything `WRP.FBDELAY` does to the registers; which sample count it clamps is left open. -/
theorem setFeedbackDelay_inst (v : Raw) (s : State) : ∃ count, (setFeedbackDelay v s).inst =
    { s.inst with
      raw := { s.inst.raw with fbDelay := v }
      fs := s.hostFs
      coef := (rateCoef s).1
      fbDelay := clampFbDelay s.cfg count } :=
  ⟨_, rfl⟩

theorem setLookahead_bus (v : Raw) (s : State) : (setLookahead v s).bus = s.bus := rfl

theorem setFeedbackDelay_bus (v : Raw) (s : State) : (setFeedbackDelay v s).bus = s.bus := rfl

/-- Settles O10: whatever the count, free or not, the clamp brings the length into its range. -/
theorem lengthCommandsKeepTheirRange : Obligations.LengthCommandsKeepTheirRange := by
  intro v s hrun hfb hla
  refine ⟨⟨setLookahead v s, whenRunning_run hrun, ?lookahead⟩,
    ⟨setFeedbackDelay v s, whenRunning_run hrun, ?feedback⟩⟩
  case lookahead =>
    obtain ⟨count, hinst⟩ := setLookahead_inst v s
    obtain ⟨hlow, hhigh⟩ := clampLookahead_mem hla count
    rw [hinst, setLookahead_bus]
    exact ⟨hlow, hhigh, rfl, rfl, rfl, rfl, rfl, rfl, rfl, rfl, rfl⟩
  case feedback =>
    obtain ⟨count, hinst⟩ := setFeedbackDelay_inst v s
    obtain ⟨hlow, hhigh⟩ := clampFbDelay_mem hfb count
    rw [hinst, setFeedbackDelay_bus]
    exact ⟨hlow, Nat.le_sub_one_of_lt hhigh, rfl, rfl, rfl, rfl, rfl, rfl, rfl, rfl, rfl⟩

end Sys2Proof.Machine
end

section
/-! PROOFS. `BLKSTART` (46_mixengine_frame.md R210): what its latch gives each register, and the
threshold over the reals (R211). -/

namespace Sys2Proof.Machine

/-! ### The latch while `S.run` is set -/

/-- 10_state.md R40: a raw mode is compared as the integer it stands for. -/
theorem modeOf_eq (v : Raw) : modeOf v = if v = 1 then .overwrite else .accumulate :=
  if_congr (BitVec.toInt_inj (y := 1)) rfl rfl

/-- 10_state.md R42: a raw curve selector, likewise. -/
theorem satOf_eq (v : Raw) :
    satOf v = if v = 1 then .tube else if v = 2 then .hard else .soft :=
  if_congr (BitVec.toInt_inj (y := 1)) rfl (if_congr (BitVec.toInt_inj (y := 2)) rfl rfl)

theorem latchOf_chan (N : NumOps NumVal) (p : RawParams) (c : Fin 8) :
    (latchOf N p).chan[c] = latchChan N p.chan[c] :=
  bank8_get (fun c => latchChan N p.chan[c]) c

/-- Everything `BLKSTART` does while `S.run` is set. -/
theorem exec_blkstart_run {s : State} (hrun : s.inst.run = true) :
    exec .blkstart s = .next (s.setInst (latch s.cfg s.inst)) :=
  (exec_blkstart s).trans (whenRunning_run hrun)

/-- Settles O12: the latch of the raw parameters, register by register. -/
theorem blockStartLatchesParameters : Obligations.BlockStartLatchesParameters := by
  intro s hrun N P unit
  exact ⟨latchOf N P, exec_blkstart_run hrun, rfl, rfl, modeOf_eq P.outMode, rfl, satOf_eq P.sat,
    fun c => latchOf_chan N P c⟩

/-- The latch reads the raw parameters only, which it does not write. -/
theorem latch_latch (C : Cfg) (i : Instance) : latch C (latch C i) = latch C i := rfl

/-- Settles O13: the second latch gives what the first gave. -/
theorem blockStartIsIdempotent : Obligations.BlockStartIsIdempotent := by
  intro s hrun
  have hrun' : (s.setInst (latch s.cfg s.inst)).inst.run = true := hrun
  refine ⟨s.setInst (latch s.cfg s.inst), exec_blkstart_run hrun, ?_⟩
  rw [exec_blkstart_run hrun', State.setInst_cfg, State.setInst_inst, latch_latch]
  rfl

/-! ### The threshold over the reals -/

theorem clampi_of_mem {v lo hi : Int} (hlo : lo ≤ v) (hhi : v ≤ hi) : clampi v lo hi = v := by
  simp [clampi, hlo.not_gt, hhi.not_gt]

theorem clampi_mono {v w lo hi : Int} (h : lo ≤ hi) (hvw : v ≤ w) :
    clampi v lo hi ≤ clampi w lo hi := by
  unfold clampi
  split_ifs <;> omega

/-- R211: the share of the way from `VMAX` to `VMIN` that a squash goes. -/
noncomputable def squashShare (raw : Raw) : ℝ := ((clampi raw.toInt 0 100 : ℤ) : ℝ) / 100

theorem squashShare_mem (raw : Raw) : squashShare raw ∈ Set.Icc 0 1 := by
  obtain ⟨hlo, hhi⟩ := clampi_mem (v := raw.toInt) (show (0 : Int) ≤ 100 by decide)
  have hhi' : ((clampi raw.toInt 0 100 : ℤ) : ℝ) ≤ 100 := by exact_mod_cast hhi
  exact ⟨div_nonneg (by exact_mod_cast hlo) (by norm_num), (div_le_one (by norm_num)).mpr hhi'⟩

theorem squashShare_of_mem {raw : Raw} (hlo : 0 ≤ raw.toInt) (hhi : raw.toInt ≤ 100) :
    squashShare raw = (raw.toInt : ℝ) / 100 := by
  rw [squashShare, clampi_of_mem hlo hhi]

theorem squashShare_mono {a b : Raw} (h : a.toInt ≤ b.toInt) : squashShare a ≤ squashShare b := by
  have hclamp : clampi a.toInt 0 100 ≤ clampi b.toInt 0 100 := clampi_mono (by decide) h
  exact div_le_div_of_nonneg_right (by exact_mod_cast hclamp) (by norm_num)

theorem squashShare_lt {a b : Raw} (ha : 0 ≤ a.toInt) (h : a.toInt < b.toInt)
    (hb : b.toInt ≤ 100) : squashShare a < squashShare b := by
  rw [squashShare_of_mem ha (h.le.trans hb), squashShare_of_mem (ha.trans h.le) hb]
  exact div_lt_div_of_pos_right (by exact_mod_cast h) (by norm_num)

section
variable {vMax vMin : ℝ}

/-- The interpolation is a point of the segment from `VMAX` to `VMIN`. -/
theorem interpolation_mem (h : vMin ≤ vMax) (raw : Raw) :
    vMax + squashShare raw * (vMin - vMax) ∈ Set.Icc vMin vMax :=
  (convex_Icc vMin vMax).add_smul_sub_mem (Set.right_mem_Icc.mpr h) (Set.left_mem_Icc.mpr h)
    (squashShare_mem raw)

/-- R211: over the reals the two guards of the threshold do nothing. -/
theorem thresh_realOps_eq (h : vMin ≤ vMax) (raw : Raw) :
    thresh realOps vMax vMin raw = vMax + squashShare raw * (vMin - vMax) := by
  obtain ⟨hlo, hhi⟩ := interpolation_mem h raw
  rw [thresh_realOps, ← squashShare, max_eq_right hlo, min_eq_right hhi]

end

/-- Settles O56: the guards do nothing, and the share of the squash rises from 0 to 1. -/
theorem thresholdFallsWithSquash : Obligations.ThresholdFallsWithSquash := by
  intro vMax vMin _ hle T
  have hT : ∀ raw, T raw = vMax + squashShare raw * (vMin - vMax) := thresh_realOps_eq hle
  refine ⟨fun raw => ⟨hT raw, ?range⟩, ?least, ?most, fun a b hab => ?weakly,
    fun a b hlt ha hab hb => ?strictly⟩
  case range =>
    rw [hT]
    exact interpolation_mem hle raw
  case least =>
    have hnone : squashShare 0 = 0 := by simp [squashShare, clampi]
    rw [hT, hnone, zero_mul, add_zero]
  case most =>
    have hraw : (100 : Raw).toInt = 100 := by decide
    have hall : squashShare 100 = 1 := by norm_num [squashShare_of_mem, hraw]
    rw [hT, hall, one_mul, add_sub_cancel]
  case weakly =>
    rw [hT, hT]
    exact add_le_add_right
      (mul_le_mul_of_nonpos_right (squashShare_mono hab) (sub_nonpos.mpr hle)) vMax
  case strictly =>
    rw [hT, hT]
    exact add_lt_add_right
      (mul_lt_mul_of_neg_right (squashShare_lt ha hab hb) (sub_neg.mpr hlt)) vMax

end Sys2Proof.Machine
end

section
/-! PROOFS. `FRAME` as the dataflow of its rules (46_mixengine_frame.md R200 to R206): the mix and its
master level, the limiter, the two output lanes, and what a frame leaves unchanged. -/

namespace Sys2Proof.Machine

/-! ### The mix and the master level -/

section
variable (C : Cfg) (bus : Memory) (i : Instance)

/-- R203: the two sides of the mix, the ascending sums of what the rules make of each channel. -/
def ruleMix : NumVal × NumVal :=
  let N := arithOps C.arith
  ((List.finRange 8).take i.n).foldl (fun a c =>
    (N.add a.1 (Rule.left C N bus i c), N.add a.2 (Rule.right C N bus i c))) (N.ofInt 0, N.ofInt 0)

theorem mixChannels_sides :
    ((mixChannels C bus i).l, (mixChannels C bus i).r) = ruleMix C bus i := by
  have hleft := fun c => (channel_sides_eq_rule C bus c i).1
  have hright := fun c => (channel_sides_eq_rule C bus c i).2
  rw [(mixChannels_spec C bus i).2]
  simp only [hleft, hright]
  rfl

/-- R204: the master level after the frame. -/
def masterNext : NumVal := smooth (arithOps C.arith) i.coef.cS i.sMaster i.latched.tMaster

/-- The registers and rings `LIMIT` receives: the channel loop, the master level and `FBADV` have worked
on them. -/
theorem preLimit_inst : (preLimit C bus i).inst = { i with
    chan := (mixChannels C bus i).inst.chan
    fb := (mixChannels C bus i).inst.fb
    sMaster := masterNext C i
    fbW := ringNext C.fbBufSize i.fbW } := by
  have hrest := (mixChannels_spec C bus i).1.rest
  simp only [preLimit, fbAdv, applyMaster, smoothMaster, masterNext]
  generalize (mixChannels C bus i).inst = j at hrest ⊢
  rw [hrest]
  rfl

/-- R204: the mix under the new master level. -/
theorem preLimit_sides :
    (preLimit C bus i).l = (arithOps C.arith).mul (ruleMix C bus i).1 (masterNext C i) ∧
    (preLimit C bus i).r = (arithOps C.arith).mul (ruleMix C bus i).2 (masterNext C i) := by
  have hmaster : (preLimit C bus i).inst.sMaster = masterNext C i := by rw [preLimit_inst]
  rw [← mixChannels_sides, ← hmaster]
  exact ⟨rfl, rfl⟩

end

/-! ### The limiter -/

/-- 44_saturation.md R171 to R173: the machine's curves, their literals in lowest terms. -/
theorem sat_eq_rule (N : NumOps NumVal) (sel : SatCurve) (x : NumVal) :
    sat N sel x = Rule.curve N sel x := by
  have h8 : (8 / 10 : Rat) = 4 / 5 := by norm_num
  have h12 : (12 / 10 : Rat) = 6 / 5 := by norm_num
  cases sel with
  | soft => rfl
  | tube => simp only [sat, satTube, Rule.curve, h8, h12]
  | hard => simp only [sat, satHard, hardMagnitude, Rule.curve, h8]

/-- 45_limiter.md R187, R188: one side of the output. -/
theorem limitSide_eq_rule (N : NumOps NumVal) (sel : SatCurve) (gr env thr d : NumVal) :
    limitSide N sel gr env thr d = Rule.output N sel gr env thr d := by
  simp only [limitSide, satN, sat_eq_rule, engaged, Bool.or_eq_true, Rule.output]

theorem laAddr_eq (slot side : Nat) : laAddr slot side = slot * 2 + side := by
  rw [laAddr, Nat.mul_comm]

/-- 45_limiter.md R181, R182: the delayed sample of a side in a frame in which `now` is written. -/
def delayedSample (C : Cfg) (i : Instance) (side : Nat) (now : NumVal) : NumVal :=
  let a := (i.laW + C.laBufSize - i.laLen) % C.laBufSize * 2 + side
  if a = i.laW * 2 + side then now else memRead i.la a

section
variable {C : Cfg} {i : Instance} {side : Nat}

/-- Where the read slot is the write slot, the sample just written. -/
theorem delayedSample_of_eq (h : ringRead C.laBufSize i.laW i.laLen = i.laW) (now : NumVal) :
    delayedSample C i side now = now :=
  if_pos (congrArg (· * 2 + side) h)

/-- Where it is another, the word of that slot. -/
theorem delayedSample_of_ne (h : ringRead C.laBufSize i.laW i.laLen ≠ i.laW) (now : NumVal) :
    delayedSample C i side now = memRead i.la (laAddr (ringRead C.laBufSize i.laW i.laLen) side) := by
  have haddr : (i.laW + C.laBufSize - i.laLen) % C.laBufSize * 2 + side ≠ i.laW * 2 + side := by
    unfold ringRead at h
    omega
  rw [laAddr_eq]
  exact if_neg haddr

theorem laRead_laWrite (hwf : Memory.wf i.la = true) (l r : NumVal) :
    laRead C 0 (laWrite l r i) = delayedSample C i 0 l ∧
    laRead C 1 (laWrite l r i) = delayedSample C i 1 r := by
  by_cases h : ringRead C.laBufSize i.laW i.laLen = i.laW
  · rw [delayedSample_of_eq h, delayedSample_of_eq h]
    simp only [laRead, laWrite, Instance.setLa_la, Instance.setLa_laW, Instance.setLa_laLen, h]
    exact memRead_laSlot hwf i.laW l r
  · rw [delayedSample_of_ne h, delayedSample_of_ne h]
    exact ⟨laRead_laWrite_other (by decide) h l r, laRead_laWrite_other (by decide) h l r⟩

end

section
variable (s : State)

/-- What the limiter of a frame answers: the registers and rings after the frame, and the two outputs. -/
def frameLimit : Stereo := limit s.cfg (preLimit s.cfg s.bus s.inst)

theorem processFrame_inst_eq : (processFrame s).inst = (frameLimit s).inst := rfl

/-- R204, 45_limiter.md R183 to R186: the registers that follow the mix. -/
theorem processFrame_follow :
    let i := s.inst
    let N := arithOps s.cfg.arith
    let p := preLimit s.cfg s.bus i
    (processFrame s).inst.sMaster = masterNext s.cfg i ∧
    (processFrame s).inst.env = envNext N i.coef i.env (peakOf N p.l p.r) ∧
    (processFrame s).inst.gr =
      gainNext N i.coef i.gr (gainTarget N (processFrame s).inst.env i.thr) := by
  simp only [processFrame_inst_eq, frameLimit, limit_inst, preLimit_inst, and_self]

/-- 45_limiter.md R187, R188: the two outputs, from the gain and the envelope after the frame. -/
theorem frameLimit_sides (hwf : Memory.wf s.inst.la = true) :
    let i := s.inst
    let t := (processFrame s).inst
    let p := preLimit s.cfg s.bus i
    let side := Rule.output (arithOps s.cfg.arith) i.latched.sat t.gr t.env i.thr
    (frameLimit s).l = side (delayedSample s.cfg i 0 p.l) ∧
    (frameLimit s).r = side (delayedSample s.cfg i 1 p.r) := by
  intro i t p side
  have hinst : p.inst = _ := preLimit_inst s.cfg s.bus i
  have hside : ∀ d, limitSide (arithOps s.cfg.arith) p.inst.latched.sat t.gr t.env p.inst.thr d =
      side d := by
    intro d
    rw [hinst, limitSide_eq_rule]
  have hdelayed : ∀ k now, delayedSample s.cfg p.inst k now = delayedSample s.cfg i k now := by
    intro k now
    rw [hinst]
    rfl
  have hwf' : Memory.wf p.inst.la = true := by rwa [hinst]
  obtain ⟨hleft, hright⟩ := laRead_laWrite (C := s.cfg) hwf' p.l p.r
  rw [← hside, ← hside, ← hdelayed, ← hdelayed, ← hleft, ← hright]
  exact ⟨rfl, rfl⟩

end

/-! ### The output lanes -/

/-- R206: what a lane holds after an output is put on it. -/
def putLane (C : Cfg) (mode : OutMode) (old v : NumVal) : NumVal :=
  if mode = .overwrite then v else (arithOps C.arith).add old v

section
variable {C : Cfg} {mode : OutMode} {lane : Int} {v : NumVal} {bus : Memory} {a : Nat}

theorem laneWrite_valid (h : busValid C lane = true) : laneWrite C mode lane v bus =
    memWrite bus lane.toNat (putLane C mode (memRead bus lane.toNat) v) := by
  cases mode <;> simp [laneWrite, putLane, h]

theorem laneWrite_not_valid (h : ¬ busValid C lane = true) : laneWrite C mode lane v bus = bus :=
  if_neg h

theorem laneWrite_wf (h : Memory.wf bus = true) :
    Memory.wf (laneWrite C mode lane v bus) = true := by
  by_cases hvalid : busValid C lane = true
  · rw [laneWrite_valid hvalid]
    exact memWrite_wf _ _ h
  · rwa [laneWrite_not_valid hvalid]

/-- An output leaves every lane but its own, and every lane if its own is not valid. -/
theorem memRead_laneWrite_other (h : 1 ≤ a → a ≤ C.nb → (a : Int) ≠ lane) :
    memRead (laneWrite C mode lane v bus) a = memRead bus a := by
  by_cases hvalid : busValid C lane = true
  · have hrange := (busValid_iff C lane).mp hvalid
    rw [laneWrite_valid hvalid]
    exact memRead_memWrite_other bus _ (by omega)
  · rw [laneWrite_not_valid hvalid]

/-- R206: a lane from 1 to `NB` after an output. -/
theorem memRead_laneWrite (hwf : Memory.wf bus = true) (hpos : 1 ≤ a) (hle : a ≤ C.nb) :
    memRead (laneWrite C mode lane v bus) a =
      if lane = a then putLane C mode (memRead bus a) v else memRead bus a := by
  split_ifs with hlane
  · subst hlane
    have hvalid : busValid C a = true := (busValid_iff C a).mpr (by omega)
    rw [laneWrite_valid hvalid, Int.toNat_natCast, memRead_memWrite_same _ _ hwf]
  · exact memRead_laneWrite_other fun _ _ heq => hlane heq.symm

end

/-- R206, R207: the bus after a frame, the left lane written before the right. -/
theorem processFrame_bus (s : State) : (processFrame s).bus =
    let L := s.inst.latched
    laneWrite s.cfg L.mode L.outR (frameLimit s).r
      (laneWrite s.cfg L.mode L.outL (frameLimit s).l s.bus) := by
  have hlatched : (frameLimit s).inst.latched = s.inst.latched := by
    rw [frameLimit, limit_inst, preLimit_inst]
  rw [← hlatched]
  rfl

/-- R206, R207: each lane from 1 to `NB` after a frame. -/
theorem processFrame_lane {s : State} (hwf : Memory.wf s.bus = true) {a : Nat} (hpos : 1 ≤ a)
    (hle : a ≤ s.cfg.nb) : memRead (processFrame s).bus a =
      let L := s.inst.latched
      let afterL := if L.outL = a then putLane s.cfg L.mode (memRead s.bus a) (frameLimit s).l
        else memRead s.bus a
      if L.outR = a then putLane s.cfg L.mode afterL (frameLimit s).r else afterL := by
  rw [processFrame_bus, memRead_laneWrite (laneWrite_wf hwf) hpos hle,
    memRead_laneWrite hwf hpos hle]

/-- Settles O32: each lane after a frame. -/
theorem frameOutputLanes : Obligations.FrameOutputLanes :=
  fun s hrun hwf =>
    ⟨processFrame s, execFrame_eq hrun, fun _ hpos hle => processFrame_lane hwf hpos hle⟩

/-- Settles O29: the mix by its channels, the registers and the ring words by the mix, the outputs by
those, and the bus by the outputs. -/
theorem frameIsTheParallelDataflow : Obligations.FrameIsTheParallelDataflow := by
  intro s hrun hwf i N mix m l r peak env target gr read delayed oL oR put
  obtain ⟨hl, hr⟩ : (preLimit s.cfg s.bus i).l = l ∧ (preLimit s.cfg s.bus i).r = r :=
    preLimit_sides s.cfg s.bus i
  obtain ⟨hmaster, henv, hgr⟩ := processFrame_follow s
  obtain ⟨houtL, houtR⟩ := frameLimit_sides s hwf
  obtain ⟨hlaL, hlaR⟩ := memRead_laSlot hwf i.laW (preLimit s.cfg s.bus i).l
    (preLimit s.cfg s.bus i).r
  rw [← processFrame_la, laAddr_eq] at hlaL hlaR
  rw [hl, hr] at henv
  rw [henv] at hgr
  rw [henv, hgr, hl] at houtL
  rw [henv, hgr, hr] at houtR
  refine ⟨hl, hr, processFrame s, execFrame_eq hrun, hmaster, henv, hgr, hlaL.trans hl,
    hlaR.trans hr, ?bus, fun hbus a hpos hle => ?lane⟩
  case bus =>
    rw [processFrame_bus, houtL, houtR]
    rfl
  case lane =>
    rw [processFrame_lane hbus hpos hle, houtL, houtR]
    rfl

/-! ### What a frame leaves unchanged -/

section
variable (s : State)

/-- Beside the settings, the threshold and all raw and latched parameters are kept. -/
theorem processFrame_params_kept : (processFrame s).inst.thr = s.inst.thr ∧
    (processFrame s).inst.raw = s.inst.raw ∧ (processFrame s).inst.latched = s.inst.latched := by
  obtain ⟨_, _, _, _, l, r, hinst⟩ := processFrame_inst_kept s
  rw [hinst]
  exact ⟨rfl, rfl, rfl⟩

variable {s}

/-- The registers of every channel from `S.N` up. -/
theorem processFrame_chan_other {c : Fin 8} (hc : s.inst.n ≤ c) :
    (processFrame s).inst.chan[c] = s.inst.chan[c] := by
  rw [processFrame_inst]
  exact (mixChannels_spec s.cfg s.bus s.inst).1.kept c fun hmem =>
    (mem_channels.mp hmem).not_ge hc

/-- Every feedback word but those of the channels below `S.N` in the write slot. -/
theorem processFrame_fb_kept {a : Nat}
    (h : ∀ c : Fin 8, c < s.inst.n → a ≠ s.inst.fbW * s.inst.n + c) :
    memRead (processFrame s).inst.fb a = memRead s.inst.fb a := by
  rw [processFrame_inst]
  exact (mixChannels_spec s.cfg s.bus s.inst).1.words a fun c hc => h c (mem_channels.mp hc)

/-- Every lookahead word but the two of the write slot. -/
theorem processFrame_la_kept {a : Nat} (hleft : a ≠ s.inst.laW * 2)
    (hright : a ≠ s.inst.laW * 2 + 1) :
    memRead (processFrame s).inst.la a = memRead s.inst.la a := by
  rw [processFrame_la, laAddr_eq, laAddr_eq, Nat.add_zero, memRead_memWrite_other _ _ hright,
    memRead_memWrite_other _ _ hleft]

/-- Every lane that is not a valid output lane. -/
theorem processFrame_bus_kept {a : Nat} (h : 1 ≤ a → a ≤ s.cfg.nb →
    (a : Int) ≠ s.inst.latched.outL ∧ (a : Int) ≠ s.inst.latched.outR) :
    memRead (processFrame s).bus a = memRead s.bus a := by
  rw [processFrame_bus, memRead_laneWrite_other fun hpos hle => (h hpos hle).2,
    memRead_laneWrite_other fun hpos hle => (h hpos hle).1]

end

/-- Settles O31: each part of the state by its own law. -/
theorem frameLeavesTheRest : Obligations.FrameLeavesTheRest := by
  intro s hrun
  obtain ⟨hfbW, hlaW⟩ := processFrame_indices s
  obtain ⟨hrun', hn, hfs, hcoef, hfbDelay, hlaLen⟩ := processFrame_settings s
  obtain ⟨hthr, hraw, hlatched⟩ := processFrame_params_kept s
  exact ⟨processFrame s, execFrame_eq hrun, hfbW, hlaW, hrun', hn, hfs, hcoef, hfbDelay, hlaLen,
    hthr, hraw, hlatched, fun _ => processFrame_chan_other, fun _ => processFrame_fb_kept,
    fun _ => processFrame_la_kept, fun _ => processFrame_bus_kept, processFrame_host s⟩

end Sys2Proof.Machine
end

section
/-! PROOFS. The host commands (47_host_commands.md R220 to R238): what each does while `S.run` is
set, where it is ignored (60_exceptions.md R266), and hardware reset (70_reset_and_hazards.md R290). -/

namespace Sys2Proof.Machine

/-! ### Raw parameter writes -/

section
variable {s : State} {c : ChField} {k : Fin 8}

/-- R222: a global write while `S.run` is set. -/
theorem whenRunning_storeGlobal (hrun : s.inst.run = true) (f : RawParams → RawParams) :
    whenRunning s (fun s => storeGlobal s f) = .next (s.setInst (s.inst.setRaw (f s.inst.raw))) :=
  whenRunning_run hrun

/-- R222: a write to a channel below `S.N` while `S.run` is set. -/
theorem storeChannel_of_lt (hrun : s.inst.run = true) (hc : c.toNat = k) (hk : k < s.inst.n)
    (f : ChanRaw → ChanRaw) : storeChannel s c f = .next (s.setInst (s.inst.setRaw
      { s.inst.raw with chan := s.inst.raw.chan.set k (f s.inst.raw.chan[k]) })) := by
  rw [storeChannel, whenRunning_run hrun, channelOf_some hc hk]
  rfl

/-- R266 (log 7): a write to a channel from `S.N` up. -/
theorem storeChannel_missing (hmissing : s.inst.n ≤ c.toNat) (f : ChanRaw → ChanRaw) :
    storeChannel s c f = .next s := by
  obtain ⟨k, -, hsome, -⟩ | hheld := storeChannel_cases s c f
  · exact absurd ((channelOf_none hmissing).symm.trans hsome) (Option.some_ne_none k).symm
  · exact hheld

/-- R266 (log 7): a channel write while `S.run` is clear. -/
theorem storeChannel_idle (hidle : s.inst.run = false) (f : ChanRaw → ChanRaw) :
    storeChannel s c f = .next s :=
  whenRunning_idle hidle

end

/-- Settles O6: each is a global write. -/
theorem globalWritesStoreRawValue : Obligations.GlobalWritesStoreRawValue := by
  intro v s hrun put
  have hput := whenRunning_storeGlobal hrun
  exact ⟨hput _, hput _, hput _, hput _, hput _, hput _⟩

/-- Settles O7: each is a write to a channel below `S.N`. -/
theorem channelWritesStoreRawValue : Obligations.ChannelWritesStoreRawValue := by
  intro c k v s hrun hc hk put
  have hput := storeChannel_of_lt hrun hc hk
  rw [exec_wrpInBus, exec_wrpFb, exec_wrpFbCvBus, exec_wrpFbCvDepth, exec_wrpPan, exec_wrpPanCvBus,
    exec_wrpPanCvDepth]
  exact ⟨hput _, hput _, hput _, hput _, hput _, hput _, hput _⟩

/-! ### Commands that are ignored, and commands that complete -/

/-- Settles O15: each is a write to a channel from `S.N` up. -/
theorem missingChannelIsIgnored : Obligations.MissingChannelIsIgnored := by
  intro c v s hmissing
  have hheld := storeChannel_missing hmissing
  rw [exec_wrpInBus, exec_wrpFb, exec_wrpFbCvBus, exec_wrpFbCvDepth, exec_wrpPan, exec_wrpPanCvBus,
    exec_wrpPanCvDepth]
  exact ⟨hheld _, hheld _, hheld _, hheld _, hheld _, hheld _, hheld _⟩

/-- Settles O14: every command but `NOP` and `CONSTRUCT` asks for `S.run` first. -/
theorem unconstructedIgnoresCommands : Obligations.UnconstructedIgnoresCommands := by
  intro i s hidle hi
  cases i with
  | nop => rfl
  | construct n => exact absurd rfl (hi n)
  | wrpOutL v | wrpOutR v | wrpOutMode v | wrpMaster v | wrpSat v | wrpSquash v | wrpLookahead v
  | wrpFbDelay v | blkstart | frame =>
    simp only [exec_wrpOutL, exec_wrpOutR, exec_wrpOutMode, exec_wrpMaster, exec_wrpSat,
      exec_wrpSquash, exec_wrpLookahead, exec_wrpFbDelay, exec_blkstart, exec_frame]
    exact whenRunning_idle hidle
  | wrpInBus c v | wrpFb c v | wrpFbCvBus c v | wrpFbCvDepth c v | wrpPan c v | wrpPanCvBus c v
  | wrpPanCvDepth c v =>
    simp only [exec_wrpInBus, exec_wrpFb, exec_wrpFbCvBus, exec_wrpFbCvDepth, exec_wrpPan,
      exec_wrpPanCvBus, exec_wrpPanCvDepth]
    exact storeChannel_idle hidle _

/-- R267: no command touches the configuration, the rate port or the host's coming moves. -/
theorem CommandEffect.host_kept {i : Instr} {s t : State} (h : CommandEffect s i t) :
    t.cfg = s.cfg ∧ t.hostFs = s.hostFs ∧ t.port = s.port := by
  cases h <;> exact ⟨rfl, rfl, rfl⟩

/-- Settles O16: each command has its effect or none, and neither touches what is the host's. -/
theorem commandsAlwaysComplete : Obligations.CommandsAlwaysComplete := by
  intro i s
  obtain ⟨t, hnext, heffect⟩ := exec_completes i s
  exact ⟨t, hnext, heffect.host_kept⟩

/-- Settles O1: the word of the well-formed command `NOP` is 0. -/
theorem nopHasNoEffect : Obligations.NopHasNoEffect :=
  ⟨decode_of_encode_eq (i := .nop) (by decide) (by decide), fun _ => rfl⟩

/-- Settles O25: the step is the reset, on the state with that move taken off the port. -/
theorem hardwareResetClearsRun : Obligations.HardwareResetClearsRun := by
  intro s rest hport
  obtain ⟨hrun, -, -, hbus, hhostFs, hcfg, hrest⟩ := hardwareReset_fields (s.setPort rest)
  exact ⟨hardwareReset (s.setPort rest), step_move hport, hrun, hbus, hhostFs, hcfg, hrest⟩

/-! ### The length commands at a rate other than 0 -/

section
variable {s : State} (hrate : s.hostFs ≠ 0)
include hrate

/-- R229: at such a rate no free value is drawn. -/
theorem recompute_of_ne :
    recompute s = s.setInst (s.inst.setRate s.hostFs (coefOf s.cfg s.hostFs)) := by
  rw [recompute, rateCoef_of_ne hrate]
  rfl

/-- R230, R231: a length command counts samples at the rate it has just read. -/
theorem lengthCount_recompute (v : Raw) :
    lengthCount (recompute s) v = (ms2samp (signed v) s.hostFs.toNat, s.free) := by
  rw [recompute_of_ne hrate]
  exact lengthCount_of_ne hrate

theorem setLookahead_of_ne (v : Raw) : setLookahead v s = s.setInst { s.inst with
    raw := { s.inst.raw with lookahead := v }
    fs := s.hostFs
    coef := coefOf s.cfg s.hostFs
    laLen := clampLookahead s.cfg (ms2samp (signed v) s.hostFs.toNat) } := by
  have hrate' : (storeGlobal s fun p => { p with lookahead := v }).hostFs ≠ 0 := hrate
  simp only [setLookahead, lengthCount_recompute hrate']
  rw [recompute_of_ne hrate']
  rfl

theorem setFeedbackDelay_of_ne (v : Raw) : setFeedbackDelay v s = s.setInst { s.inst with
    raw := { s.inst.raw with fbDelay := v }
    fs := s.hostFs
    coef := coefOf s.cfg s.hostFs
    fbDelay := clampFbDelay s.cfg (ms2samp (signed v) s.hostFs.toNat) } := by
  have hrate' : (storeGlobal s fun p => { p with fbDelay := v }).hostFs ≠ 0 := hrate
  simp only [setFeedbackDelay, lengthCount_recompute hrate']
  rw [recompute_of_ne hrate']
  rfl

end

/-- Settles O8: the sample count is that of the rate port. -/
theorem lookaheadWriteActsAtOnce : Obligations.LookaheadWriteActsAtOnce := by
  intro v s hrun hrate
  rw [exec_wrpLookahead, whenRunning_run hrun, setLookahead_of_ne hrate]
  rfl

/-- Settles O9: the sample count is that of the rate port. -/
theorem feedbackDelayWriteActsAtOnce : Obligations.FeedbackDelayWriteActsAtOnce := by
  intro v s hrun hrate
  rw [exec_wrpFbDelay, whenRunning_run hrun, setFeedbackDelay_of_ne hrate]
  rfl

end Sys2Proof.Machine
end

section
/-! PROOFS. `CONSTRUCT` (47_host_commands.md R221, 70_reset_and_hazards.md R291), and a frame of
registers at rest. -/

namespace Sys2Proof.Machine

/-! ### The construct values -/

/-- R221: the channel count is the operand brought into `1..8`. -/
theorem channelCount_cast (n : Raw) : (channelCount n : Int) = clampi (signed n) 1 8 :=
  Int.toNat_of_nonneg (zero_le_one.trans (clampi_mem (by decide)).1)

/-- R221 (D27): `CONSTRUCT` reads none of the registers and rings it replaces. -/
theorem construct_setInst (n : Raw) (s : State) (old : Instance) :
    construct n (s.setInst old) = construct n s := rfl

/-- R291: every channel register is constructed as 0. -/
theorem construct_chan (n : Raw) (s : State) (c : Fin 8) :
    (construct n s).inst.chan[c] = ⟨zeroWord, zeroWord, zeroWord, zeroWord⟩ := by
  have hchan : (construct n s).inst.chan = Vector.replicate 8
    ⟨(arithOps s.cfg.arith).ofInt 0, (arithOps s.cfg.arith).ofInt 0,
      (arithOps s.cfg.arith).ofInt 0, (arithOps s.cfg.arith).ofInt 0⟩ := rfl
  rw [hchan, arithOps_zero]
  exact Vector.getElem_replicate _

/-- R221, R229: at a rate other than 0 the coefficients are those of the rate, and no free value is
drawn. -/
theorem construct_of_ne {s : State} (hrate : s.hostFs ≠ 0) (n : Raw) :
    (construct n s).inst.coef = coefOf s.cfg s.hostFs ∧ (construct n s).free = s.free :=
  Prod.ext_iff.mp (rateCoef_of_ne hrate)

/-- Settles O3: the next state is `construct n s`, which reads none of the old registers and
rings. -/
theorem constructDiscardsOldInstance : Obligations.ConstructDiscardsOldInstance :=
  fun n s old => ⟨construct n s, rfl, congrArg Host.Outcome.next (construct_setInst n s old),
    rfl, rfl, rfl, rfl⟩

/-- Settles O2: the fresh registers one by one, and the two empty rings. -/
theorem constructGivesConstructValues : Obligations.ConstructGivesConstructValues := by
  intro n s hrate N
  obtain ⟨hcoef, hfree⟩ := construct_of_ne hrate n
  have hzero : zeroWord = N.ofInt 0 := (arithOps_zero _).symm
  have hchan := construct_chan n s
  rw [hzero] at hchan
  exact ⟨construct n s, rfl, rfl, channelCount_cast n, rfl, hcoef, hchan, rfl, fun _ => hzero, rfl,
    rfl, fun _ => hzero, rfl, rfl, rfl, rfl, rfl, rfl, rfl, rfl, rfl, rfl, rfl, hfree⟩

/-! ### A frame of registers at rest -/

/-- Registers and rings with nothing to output and nothing to read: every signal and every target is 0,
both rings are empty, every bus is lane 0, which does not exist, and the gain is 1 under a threshold not
below 0. -/
structure AtRest (i : Instance) : Prop where
  regs : ∀ c : Fin 8, i.chan[c] = ⟨.rat 0, .rat 0, .rat 0, .rat 0⟩
  targets : ∀ c : Fin 8, i.latched.chan[c] = ⟨0, .rat 0, 0, .rat 0, .rat 0, 0, .rat 0⟩
  master : i.sMaster = .rat 0
  masterTarget : i.latched.tMaster = .rat 0
  lanes : i.latched.outL = 0 ∧ i.latched.outR = 0
  fb : i.fb = []
  la : i.la = []
  env : i.env = .rat 0
  gr : i.gr = .rat 1
  thr : exactLt i.thr (.rat 0) = false

/-- 20_memory.md R68: there is no lane 0. -/
theorem busValid_zero (C : Cfg) : busValid C 0 = false := rfl

/-- An empty memory stays empty when the word an unlisted address reads as is written to it. -/
theorem memWrite_nil_zero (a : Nat) : memWrite [] a (.rat 0) = [] := if_pos rfl

/-- 40_smoother.md R121: a smoother at its target of 0 does not move. -/
theorem smooth_exactOps_zero (k : NumVal) : smooth exactOps k (.rat 0) (.rat 0) = .rat 0 := by
  simp [smooth]

/-- 42_feedback_dcblock.md R143: a DC blocker with no past and no input is silent. -/
theorem dcOut_exactOps_zero (r : NumVal) : dcOut exactOps r (.rat 0) (.rat 0) (.rat 0) = .rat 0 := by
  simp [dcOut]

/-- 45_limiter.md R183, R184: an envelope at 0 stays there in silence. -/
theorem envNext_exactOps_zero (K : Coeffs NumVal) :
    envNext exactOps K (.rat 0) (peakOf exactOps (.rat 0) (.rat 0)) = .rat 0 := by
  simp [envNext, peakOf, exactAbs, exactMax]

section
variable {C : Cfg} {i : Instance} (harith : C.arith = .exactReals) (h : AtRest i)
include h

theorem AtRest.fbTap (c : Fin 8) : fbTap C c i = .rat 0 := by
  rw [Machine.fbTap, h.fb]
  rfl

include harith

/-- A channel at rest is left as it is. -/
theorem AtRest.channelRegs (c : Fin 8) : channelRegs C c i = i.chan[c] := by
  simp only [Machine.channelRegs, arithOps_exact harith, h.regs, h.targets, h.fbTap,
    smooth_exactOps_zero, dcOut_exactOps_zero]

/-- Its signal is 0: no input, and the filtered tap is 0. -/
theorem AtRest.channelWord (bus : Memory) (c : Fin 8) : channelWord C bus c i = .rat 0 := by
  simp [Machine.channelWord, input, fbSum, arithOps_exact harith, h.regs, h.targets, h.fbTap,
    smooth_exactOps_zero, dcOut_exactOps_zero, busValid_zero]

/-- 46_mixengine_frame.md R201: its turn changes nothing and adds nothing to the mix. -/
theorem AtRest.channel (bus : Memory) (c : Fin 8) :
    channel C bus c i = ⟨i, .rat 0, .rat 0⟩ := by
  have hchan : i.chan.set c (Machine.channelRegs C c i) = i.chan := by
    rw [h.channelRegs harith]
    exact Vector.set_getElem_self _
  have hfb : memWrite i.fb (fbAddr i i.fbW c) (.rat 0) = i.fb := by
    rw [h.fb, memWrite_nil_zero]
  rw [channel_eq, h.channelWord harith, hchan, hfb, arithOps_exact harith]
  simp only [exactOps_mul, exactMul_zero_left]

/-- R203: nor does the channel loop. -/
theorem AtRest.mixChannels (bus : Memory) : mixChannels C bus i = ⟨i, .rat 0, .rat 0⟩ := by
  have hturn : ∀ c, mixChannel C bus ⟨i, .rat 0, .rat 0⟩ c = ⟨i, .rat 0, .rat 0⟩ := by
    intro c
    simp [mixChannel, h.channel harith, arithOps_exact harith]
  rw [Machine.mixChannels, arithOps_exact harith]
  exact List.foldl_fixed' hturn _

/-- R204: the master level stays 0, and only the feedback ring's write index advances. -/
theorem AtRest.preLimit (bus : Memory) :
    preLimit C bus i = ⟨i.setFbW (ringNext C.fbBufSize i.fbW), .rat 0, .rat 0⟩ := by
  have hmaster : smoothMaster exactOps i = i := by
    rw [smoothMaster, h.master, h.masterTarget, smooth_exactOps_zero, ← h.master]
    rfl
  simp [Machine.preLimit, applyMaster, h.mixChannels harith, arithOps_exact harith, hmaster, fbAdv]

/-- 45_limiter.md R180: in silence `LIMIT` only advances the lookahead ring's write index. -/
theorem AtRest.limit_inst :
    (limit C ⟨i, .rat 0, .rat 0⟩).inst = i.setLaW (ringNext C.laBufSize i.laW) := by
  have hthr : realValue (.rat 0) ≤ realValue i.thr :=
    not_lt.mp (mt (exactLt_iff _ _).mpr (Bool.eq_false_iff.mp h.thr))
  simp only [Machine.limit_inst, arithOps_exact harith, h.la, memWrite_nil_zero, h.env, h.gr,
    envNext_exactOps_zero, gainTarget_exactOps_of_le hthr, gainNext_exactOps_one]
  rw [← h.la, ← h.env, ← h.gr]
  rfl

end

/-- Being at rest does not depend on the feedback ring's write index. -/
theorem AtRest.setFbW {i : Instance} (h : AtRest i) (k : Nat) : AtRest (i.setFbW k) :=
  ⟨h.regs, h.targets, h.master, h.masterTarget, h.lanes, h.fb, h.la, h.env, h.gr, h.thr⟩

/-- 46_mixengine_frame.md R200: a frame of registers at rest advances the two write indices and does
nothing else. -/
theorem AtRest.processFrame {s : State} (harith : s.cfg.arith = .exactReals) (h : AtRest s.inst) :
    processFrame s = s.setInst ((s.inst.setFbW (ringNext s.cfg.fbBufSize s.inst.fbW)).setLaW
      (ringNext s.cfg.laBufSize s.inst.laW)) := by
  have hinst : (Machine.processFrame s).inst = (s.inst.setFbW (ringNext s.cfg.fbBufSize
      s.inst.fbW)).setLaW (ringNext s.cfg.laBufSize s.inst.laW) := by
    rw [processFrame_inst_eq, frameLimit, h.preLimit harith, (h.setFbW _).limit_inst harith,
      Instance.setFbW_laW]
  have hbus : (Machine.processFrame s).bus = s.bus := by
    have hlane : ¬ busValid s.cfg 0 = true := Bool.eq_false_iff.mp (busValid_zero s.cfg)
    simp only [processFrame_bus, h.lanes, laneWrite_not_valid hlane]
  calc Machine.processFrame s
      = (s.setInst (Machine.processFrame s).inst).setBus (Machine.processFrame s).bus := rfl
    _ = _ := by rw [hinst, hbus]; rfl

/-- R291: in exact arithmetic `CONSTRUCT` leaves all registers at rest. -/
theorem atRest_construct {s : State} (harith : s.cfg.arith = .exactReals)
    (hwf : cfgWf s.cfg = true) (hmax : exactLt s.cfg.vMax (.rat 0) = false) (n : Raw) :
    AtRest (construct n s).inst := by
  obtain ⟨t, hnext, hthr, houtL, houtR, -, -, hmaster, htargets⟩ :=
    freshThresholdIsMaximum n s harith hwf
  cases hnext
  have hN := arithOps_exact harith
  exact {
    regs := construct_chan n s
    targets := htargets
    master := congrArg (·.ofInt 0) hN
    masterTarget := hmaster
    lanes := ⟨houtL, houtR⟩
    fb := rfl
    la := rfl
    env := congrArg (·.ofInt 0) hN
    gr := congrArg (·.ofInt 1) hN
    thr := by rwa [hthr] }

/-- Settles O5: what `CONSTRUCT` leaves is at rest, with both write indices 0. -/
theorem freshFrameOnlyAdvancesRings : Obligations.FreshFrameOnlyAdvancesRings := by
  intro n s t harith hwf hmax hnext
  cases hnext
  have hrest := atRest_construct harith hwf hmax n
  calc exec .frame (construct n s)
      = .next (processFrame (construct n s)) := execFrame_eq rfl
    _ = _ := congrArg Host.Outcome.next (hrest.processFrame harith)

end Sys2Proof.Machine
end
